-- ==== Sys2Proof/Word.lean ====
section
/-! DEFINITION. The widths of the IM150 frame pipeline (R8 of spec/00_scope.md, R80 and R100 of
spec/30_encoding.md): bytes, raw registers, times, command words, stage codes, result codes. -/

namespace Sys2Proof

/-- One cell of a byte space and the data of APPEND (R8 `BYTE_W`, R50). -/
abbrev Byte := BitVec 8

/-- A raw register `x[i]` (R26). -/
abbrev Word := BitVec 32

/-- A time value: `now`, `last`, `idle_timeout` (R8 `TIME_W`, R21, R22). -/
abbrev Time := BitVec 32

/-- The bit pattern of a binary32 datum (R221). -/
abbrev Binary32 := BitVec 32

/-- The fill count of the frame buffer, an unsigned 9-bit count of 0 to 258 (R20). -/
abbrev FillCount := Fin 259

/-- The command word `cw[162:0]` (R80). -/
abbrev CmdWord := BitVec 163

/-- A value of the sequencer position `stage` (R27, R105). -/
abbrev StageCode := BitVec 4

/-- A result code `res_code` (R240). -/
abbrev ResCode := BitVec 4

end Sys2Proof
end

