-- ==== Sys2Proof/Config.lean ====
section
/-! DEFINITION. The implementation parameters of R8 (spec/00_scope.md), each with the value this hardware
takes. No parameter of the spec leaves the value of a result open, so there is no free value here. -/

namespace Sys2Proof.Config

/-- `BUF_CAP` (R8, decision D5): cells of the frame buffer, where `len` saturates. -/
def bufCap : Nat := 258

/-- `MIN_FRAME_LEN` (R8, R140, decision D6). -/
def minFrameLen : Nat := 33

/-- `IDLE_TIMEOUT_DEFAULT` (R8, R32). -/
def idleTimeoutDefault : Time := 100#32

/-- `KEY_LEN` (R8). -/
def keyLen : Nat := 16

/-- `HDR_LEN` (R8): offset of the first payload byte in the frame. -/
def hdrLen : Nat := 30

/-- `OVERHEAD` (R8): frame length minus payload length. -/
def overhead : Nat := 33

/-- `ENERGY_MOD` (R8). -/
def energyMod : Nat := 1000000

/-- `ENERGY_DIV` (R8). -/
def energyDiv : Nat := 1000

/-- `MAX_FRAME_LEN` (R8): the longest length CHK_LEN can accept. -/
def maxFrameLen : Nat := 257

/-- `MAX_PAYLOAD` (R8). -/
def maxPayload : Nat := 224

/-- `STR_MAX` (R8): the longest decimal string of a 32-bit value. -/
def strMax : Nat := 10

/-- `TIME_UNIT` (R8, U10, decision D4): the physical duration of one time unit, left OPEN by the spec and
uninterpreted here; no rule depends on it. -/
opaque timeUnit : Nat

end Sys2Proof.Config
end

