-- ==== Sys2Proof/Machine/Memory.lean ====
section
/-! DEFINITION. The frame buffer FB (R20, R50 of spec/20_memory.md) as data: a list of cells in one canonical form. A
cell that is not listed reads as the filler, which R271 lets a model put in a cell the spec gives no value (log
entry 6), and no entry is equal to it. -/

namespace Sys2Proof.Machine

/-- Cells of a byte space, each with its index. -/
abbrev Memory := List Host.Cell

/-- What a cell reads as to which the spec gives no value: 'any filler, for instance zero' (R271; log entry 6). -/
def Memory.filler : Byte := 0x00#8

/-- The canonical form: addresses strictly rising, no entry equal to what an unlisted address reads as. -/
abbrev Memory.wf (m : Memory) : Prop :=
  (m.map Prod.fst).Pairwise (· < ·) ∧ ∀ c ∈ m, c.2 ≠ Memory.filler

/-- The space in which no cell is listed. -/
def Memory.empty : Memory := []

/-- The value of a cell. -/
def Memory.read : Memory → Nat → Byte
  | [], _ => Memory.filler
  | (k, v) :: m, a => if a = k then v else Memory.read m a

/-- The entries but those of address `a`. -/
def Memory.erase (m : Memory) (a : Nat) : Memory := m.filter fun c => c.1 != a

/-- The space with an entry put where its address belongs. -/
def Memory.insert : Memory → Nat → Byte → Memory
  | [], a, b => [(a, b)]
  | (k, v) :: m, a, b => if a < k then (a, b) :: (k, v) :: m else (k, v) :: Memory.insert m a b

/-- The space after byte `b` was written at index `a`. -/
def Memory.write (m : Memory) (a : Nat) (b : Byte) : Memory :=
  if b = Memory.filler then Memory.erase m a else Memory.insert (Memory.erase m a) a b

/-- `MemRead(S, a, n)` of R12: the `n` bytes from index `a`. -/
def Memory.readBytes (m : Memory) (a n : Nat) : List Byte := (List.range n).map fun i => Memory.read m (a + i)

end Sys2Proof.Machine
end

