-- ==== Sys2Proof/Machine/State.lean ====
section
/-! DEFINITION. The state of the block: all that spec/10_state.md gives it (R20 to R32), the result port
(R100 of spec/30_encoding.md), and the host events it has not yet taken (log entry 1). Field names are the
spec's own. -/

namespace Sys2Proof.Machine

/-- A decimal string as the result record carries it: the number of characters and ten cells, the unused
ones 0 (R100 `s_len`, `s_chr`; R223). -/
structure DecStr where
  len : BitVec 4
  chr : Vector Byte 10
deriving DecidableEq, Repr

/-- The string fields of a record without a reading: all 0 (R100). -/
def DecStr.zero : DecStr where
  len := 0
  chr := Vector.ofFn fun _ => 0

/-- The result record `RES` of R100. -/
structure ResultRecord where
  res_valid : Bool
  res_code : ResCode
  res_warn : Bool
  rd_valid : Bool
  e : Vector Binary32 4
  p : Vector Binary32 4
  s_len : Vector (BitVec 4) 4
  s_chr : Vector (Vector Byte 10) 4
deriving DecidableEq, Repr

/-- The empty result record: `res_valid = 0` and every other field 0 (R100). -/
def ResultRecord.empty : ResultRecord where
  res_valid := false
  res_code := 0
  res_warn := false
  rd_valid := false
  e := Vector.ofFn fun _ => 0
  p := Vector.ofFn fun _ => 0
  s_len := Vector.ofFn fun _ => 0
  s_chr := Vector.ofFn fun _ => Vector.ofFn fun _ => 0

/-- The transient state of one flushing POLL (R24 to R30). `n` is the length of `B` and `L` the length of
`PB` (log entry 10); both are computed. -/
structure Run where
  /-- Sequencer position (R27). -/
  stage : StageCode
  /-- Frame snapshot (R25). -/
  B : List Byte
  /-- ModelWarning (R28). -/
  warn : Bool
  /-- Result code (R28). -/
  code : ResCode
  /-- Nonce / initial counter block, sixteen cells (R29, R50). -/
  NB : Vector Byte 16
  /-- Decrypted payload `P` (R29); empty until CTR writes it. -/
  PB : List Byte
  /-- The raw registers (R26). -/
  x : Vector Word 8
  /-- Scaled energies (R30). -/
  e : Vector Binary32 4
  /-- Powers (R30). -/
  p : Vector Binary32 4
  /-- Decimal strings (R30). -/
  s : Vector DecStr 4
deriving DecidableEq, Repr

/-- `n`, the length of the frame snapshot (R25). -/
def Run.n (r : Run) : Nat := r.B.length

/-- `L`, the current length of the payload space (R29, R50). -/
def Run.L (r : Run) : Nat := r.PB.length

/-- What the host can present to the block (R7, R80, R270). -/
inductive HostEvent where
  /-- A command word at the command port (R80). -/
  | command (w : CmdWord)
  /-- The hardware reset input, asserted (R270). -/
  | resetInput
deriving DecidableEq, Repr

/-- Why the block stops. No host command ends in this, and no step from a state that meets the invariant of
Sys2Proof/Safety.lean does (R14). -/
inductive Fault where
  /-- A micro-operation would read a byte outside the current length of the snapshot B; raised by CHK_OPEN, CHK_LEN,
  CHK_CLOSE, CHK_CRC, CHK_MODEL, NONCE and CTR, when they are run outside the fixed sequence on a snapshot that CHK_MIN
  has not let pass (R57: 'A model must never give a value to a read outside the bounds'). Safe. -/
  | outOfBounds
deriving DecidableEq, Repr

/-- Why an instruction has no meaning in a state. -/
inductive Refusal where
  /-- The instruction is rejected by name in exec's arm; no arm of this model does so. Safe. -/
  | notModelled (mnemonic : String)
  /-- A micro-operation other than DONE with no run in progress: its operands do not exist then (R24, R105);
  raised by the fifteen micro-operations. No step reaches it. Safe. -/
  | noRun
deriving DecidableEq, Repr

/-- The machine's state. -/
structure State where
  /-- Frame buffer (R20). -/
  FB : Memory
  /-- Fill count of the frame buffer (R20). -/
  len : FillCount
  /-- Time of the last byte (R21). -/
  last : Time
  /-- Idle timeout (R22). -/
  idle_timeout : Time
  /-- Key register (R23). -/
  KEY : Vector Byte 16
  /-- The key register holds a key (R23). -/
  key_valid : Bool
  /-- The transient state, present only inside a flushing POLL (R24; log entry 4). -/
  run : Option Run
  /-- The result port (R100, R32). -/
  res : ResultRecord
  /-- Host events not yet taken, oldest first: the inputs of the steps to come (R31; log entry 1). -/
  port : List HostEvent
deriving DecidableEq, Repr

/-- What the sixteen cells of KEY have while no key is loaded: the filler of R271 (log entry 6). -/
def noKey : Vector Byte 16 := Vector.ofFn fun _ => Memory.filler

/-- The reset state `S0` of R270 and R32, with no host event waiting. -/
def State.reset : State where
  FB := Memory.empty
  len := 0
  last := 0
  idle_timeout := Config.idleTimeoutDefault
  KEY := noKey
  key_valid := false
  run := none
  res := ResultRecord.empty
  port := []

end Sys2Proof.Machine
end

