-- ==== Sys2Proof/Machine/Operands.lean ====
section
/-! DEFINITION. The operand forms of the micro-operations: byte sequences and their parts (R10, R12), the two
multi-byte reads (R53, R54), the fixed offsets and constants of the wire format (R60, R85, R89, R90, R210), and
the time difference (R11). -/

namespace Sys2Proof.Machine

/-- `sub32(a, b) = (a − b) mod 2^32` (R11). -/
def sub32 (a b : Time) : Time := a - b

/-- `S[a, b)` (R10), defined only when `a ≤ b` and `b` is at most the length of `S`. -/
def slice (S : List Byte) (a b : Nat) : Option (List Byte) :=
  if a ≤ b ∧ b ≤ S.length then some ((S.take b).drop a) else none

/-- `le16(S, a)` (R53): the byte at the lower index is the less significant. -/
def le16 (S : List Byte) (a : Nat) : Option (BitVec 16) :=
  match S[a]?, S[a + 1]? with
  | some lo, some hi => some (hi ++ lo)
  | _, _ => none

/-- `be32(S, a)` (R54), for a read inside the bounds: the byte at the lowest index is the most significant. -/
def be32 (S : List Byte) (a : Nat) (h : a + 4 ≤ S.length) : Word :=
  ((S[a] ++ S[a + 1]) ++ S[a + 2]) ++ S[a + 3]

/-! ### The frame (R60, R85) -/

/-- `FLAG_OPEN` (R85). -/
def flagOpen : Byte := 0x7E#8

/-- `FMT`, the second byte of the opening marker (R85). -/
def fmtByte : Byte := 0xA0#8

/-- `FLAG_CLOSE` (R85). -/
def flagClose : Byte := 0x7E#8

/-- The declared total length `zext(B[2]) + 2`, an integer in 2 .. 257 (R86). -/
def declaredLen (lenf : Byte) : Nat := lenf.toNat + 2

/-- The expected model identifier `K h u 6 0x86` (R60, R145). -/
def modelId : List Byte := [0x4B#8, 0x68#8, 0x75#8, 0x36#8, 0x86#8]

/-- `B[16, 21)`, the model identifier (R145). -/
def modelField (B : List Byte) : Option (List Byte) := slice B 16 21

/-- `B[1, n−4)`, the bytes the CRC covers (R163). -/
def crcRange (B : List Byte) : Option (List Byte) := slice B 1 (B.length - 4)

/-- The stored CRC `le16(B, n−3)` (R87). -/
def storedCrc (B : List Byte) : Option (BitVec 16) := le16 B (B.length - 3)

/-- The ciphertext `C = B[30, 30 + L) = B[30, n−3)` (R88, R170). -/
def ciphertext (B : List Byte) : Option (List Byte) := slice B Config.hdrLen (B.length - 3)

/-! ### The nonce (R89) -/

/-- The fixed security-suite tag, the last byte of the nonce (R89). -/
def suiteTag : Byte := 0x02#8

/-- The nonce of a frame (R89, R171), for a snapshot that has its fields: the system title `B[16, 24)`, the invocation
counter `B[26, 30)`, three zero bytes, the tag. -/
def nonceOf (B : List Byte) : Option (Vector Byte 16) :=
  if h : Config.hdrLen ≤ B.length then
    some (Vector.ofFn fun i : Fin 16 =>
      if h8 : i.val < 8 then B[16 + i.val]'(by simp only [Config.hdrLen] at h; omega)
      else if h12 : i.val < 12 then B[26 + (i.val - 8)]'(by simp only [Config.hdrLen] at h; omega)
      else if i.val < 15 then 0x00#8
      else suiteTag)
  else none

/-! ### The payload (R61, R90, R210) -/

/-- The leading integrity marker `0x0F` (R61). -/
def leadMarker : Byte := 0x0F#8

/-- The separator marker `0x06` (R61). -/
def sepMarker : Byte := 0x06#8

/-- The smallest payload length for which every register field is in bounds (R210). -/
def extractMin : Nat := 39

/-- `off(i) = L − 39 + 5·i` (R210), for `L ≥ 39`. -/
def regOffset (L i : Nat) : Nat := L - extractMin + 5 * i

end Sys2Proof.Machine
end

