-- ==== Sys2Proof/Machine/Flags.lean ====
section
/-! DEFINITION. The flags: the errors and their result codes (R240), the ModelWarning (R145, R246), the idle
condition (R124) and the marker pattern (R175). The block has no condition codes and no floating-point flags
(R28, R226). -/

namespace Sys2Proof.Machine

/-- The errors a micro-operation can raise (R240). -/
inductive Exc where
  /-- `FramingError::TooShort`. -/
  | tooShort
  /-- `FramingError::BadOpeningMarker`. -/
  | badOpeningMarker
  /-- `FramingError::LengthMismatch`. -/
  | lengthMismatch
  /-- `FramingError::BadClosingMarker`. -/
  | badClosingMarker
  /-- `CrcError::Mismatch`. -/
  | crcMismatch
  /-- `DecryptionError::IntegrityCheckFailed`. -/
  | integrityCheckFailed
  /-- `ExtractionError::OutOfBounds`. -/
  | extractionOutOfBounds
  /-- `KeyNotLoaded`. -/
  | keyNotLoaded
deriving DecidableEq, Repr

/-- The result code of an error (R240). -/
def excCode : Exc → ResCode
  | .tooShort => 1
  | .badOpeningMarker => 2
  | .lengthMismatch => 3
  | .badClosingMarker => 4
  | .crcMismatch => 5
  | .integrityCheckFailed => 6
  | .extractionOutOfBounds => 7
  | .keyNotLoaded => 8

/-- The classes of R240: FramingError, CrcError, DecryptionError, ExtractionError. `KeyNotLoaded` is in none. -/
inductive ExcClass where
  | framingError
  | crcError
  | decryptionError
  | extractionError
deriving DecidableEq, Repr

/-- The class of an error (R240). -/
def excClass : Exc → Option ExcClass
  | .tooShort | .badOpeningMarker | .lengthMismatch | .badClosingMarker => some .framingError
  | .crcMismatch => some .crcError
  | .integrityCheckFailed => some .decryptionError
  | .extractionOutOfBounds => some .extractionError
  | .keyNotLoaded => none

/-- The value CHK_MODEL gives `warn`: set iff the five bytes differ from the model identifier (R145). -/
def modelWarning (model : List Byte) : Bool := model != modelId

/-- The condition under which a POLL at `now` flushes (R124): the buffer is not empty and
`sub32(now, last) > idle_timeout`. -/
def frameComplete (s : State) (now : Time) : Bool :=
  decide (0 < s.len.val) && decide (s.idle_timeout < sub32 now s.last)

/-- The marker `P[L − 5k] = 0x06` (R175); an index below 0 counts as a failed comparison. -/
def sepMarkerOk (P : List Byte) (k : Nat) : Bool :=
  decide (5 * k ≤ P.length) && (P[P.length - 5 * k]? == some sepMarker)

/-- The structure check of INTEG (R175): `P[0] = 0x0F` and the eight separator markers. A byte that does not
exist fails its comparison and is not read. -/
def markersOk (P : List Byte) : Bool :=
  (P[0]? == some leadMarker) && [1, 2, 3, 4, 5, 6, 7, 8].all (sepMarkerOk P)

end Sys2Proof.Machine
end

