-- ==== Sys2Proof/Machine/Ops.lean ====
section
/-! DEFINITION. The operations the meanings share: emitting a record, opening a run and ending it, moving the
sequencer on, a checked read, and raising an error (the block's way of taking an exception, R243; it has no
return instruction, R245: the run ends and the host issues the next command). -/

namespace Sys2Proof.Machine

/-- The outcome of an instruction. -/
abbrev Result := Host.Outcome State Fault Refusal

/-! ### Result records -/

/-- The record of a rejected frame (R100, R243): the code and the warning, no reading. -/
def rejectRecord (code : ResCode) (warn : Bool) : ResultRecord :=
  { ResultRecord.empty with res_valid := true, res_code := code, res_warn := warn }

/-- The record of a reading (R100, R227): `res_code = 0`, all twelve channels. -/
def readingRecord (r : Run) : ResultRecord where
  res_valid := true
  res_code := 0
  res_warn := r.warn
  rd_valid := true
  e := r.e
  p := r.p
  s_len := Vector.ofFn fun i : Fin 4 => (r.s[i.val]).len
  s_chr := Vector.ofFn fun i : Fin 4 => (r.s[i.val]).chr

/-- `emit empty result record` (R100). -/
def emitEmpty (s : State) : State := { s with res := ResultRecord.empty }

/-! ### Reset -/

/-- The one reset of the block (R120, R270): every field as in the reset state, host events left as they are. -/
def applyReset (s : State) : State := { State.reset with port := s.port }

/-! ### The run of a flushing POLL -/

/-- The stages of R105 in their order. -/
def stDone : StageCode := 0
def stChkMin : StageCode := 1
def stChkOpen : StageCode := 2
def stChkLen : StageCode := 3
def stChkClose : StageCode := 4
def stChkCrc : StageCode := 5
def stChkModel : StageCode := 6
def stChkKey : StageCode := 7
def stNonce : StageCode := 8
def stCtr : StageCode := 9
def stInteg : StageCode := 10
def stExtract : StageCode := 11
def stMapE : StageCode := 12
def stMapP : StageCode := 13
def stMapS : StageCode := 14
def stPublish : StageCode := 15

/-- The transient state at the opening of a run on the snapshot `B` (R125): `code` and `warn` are 0, the
sequencer stands at CHK_MIN; what no micro-operation has written yet is as log entry 7 says. -/
def startRun (B : List Byte) : Run where
  stage := stChkMin
  B := B
  warn := false
  code := 0
  NB := Vector.ofFn fun _ => Memory.filler
  PB := []
  x := Vector.ofFn fun _ => 0
  e := Vector.ofFn fun _ => 0
  p := Vector.ofFn fun _ => 0
  s := Vector.ofFn fun _ => DecStr.zero

/-- The flush of R124: the snapshot is `B`, the buffer is empty before the pipeline starts. -/
def openRun (s : State) (B : List Byte) : State :=
  { s with FB := Memory.empty, len := 0, run := some (startRun B) }

/-- A micro-operation on the run in progress; with none in progress its operands do not exist (R24, R105). -/
def withRun (s : State) (f : Run → Result) : Result :=
  match s.run with
  | some r => f r
  | none => .refused .noRun

/-- A read of a byte sequence of the run, made only inside its bounds (R57). -/
def readSeq {α : Type} (v : Option α) (f : α → Result) : Result :=
  match v with
  | some a => f a
  | none => .fault .outOfBounds

/-- The run `r` with the sequencer moved to `stage` (R12 `stage <- target`, R125). -/
def advance (s : State) (r : Run) (stage : StageCode) : Result :=
  .next { s with run := some { r with stage := stage } }

/-- `raise <Exception>` (R12, R125, R243): `code` takes the error's code, the result record becomes REJECT with
that code and the `warn` of the run, the sequencer goes to DONE, and the persistent state stays as it is. -/
def raise (s : State) (r : Run) (exc : Exc) : Result :=
  .next { s with
    run := some { r with code := excCode exc, stage := stDone }
    res := rejectRecord (excCode exc) r.warn }

/-- Raise the error if the condition holds, else move on to the stage (the form of a CHK micro-operation). -/
def raiseIf (c : Bool) (exc : Exc) (s : State) (r : Run) (stage : StageCode) : Result :=
  if c then raise s r exc else advance s r stage

end Sys2Proof.Machine
end

