-- ==== Sys2Proof/Machine/Commands.lean ====
section
/-! DEFINITION. The host commands RESET, KEYLOAD, SETTO and APPEND (R120 to R123 of
spec/40_frame_synchronizer.md) and the three reserved operation codes (R84 of spec/30_encoding.md). -/

namespace Sys2Proof.Machine

/-- RESET (R120). -/
def execReset (s : State) : Result := .next (applyReset s)

/-- KEYLOAD (R121): the first after a reset stores the key, a later one changes nothing. -/
def execKeyload (k : Vector Byte 16) (s : State) : Result :=
  if s.key_valid then .next (emitEmpty s)
  else .next (emitEmpty { s with KEY := k, key_valid := true })

/-- SETTO (R122). -/
def execSetto (t : Time) (s : State) : Result := .next (emitEmpty { s with idle_timeout := t })

/-- The cell APPEND stores to: index `len`, none when the buffer is full (R123). -/
def appendIndex (s : State) : Option (Fin 258) :=
  if h : s.len.val < 258 then some ⟨s.len.val, h⟩ else none

/-- APPEND (R123): the byte goes to `FB[len]`, or is dropped when the buffer is full; `last` takes the time in
both cases. -/
def execAppend (b : Byte) (now : Time) (s : State) : Result :=
  match appendIndex s with
  | some a => .next (emitEmpty { s with FB := Memory.write s.FB a.val b, len := a.succ, last := now })
  | none => .next (emitEmpty { s with last := now })

/-- A word with a reserved operation code changes no state and emits the empty record (R84; log entry 5). -/
def reservedCode (s : State) : Result := .next (emitEmpty s)

/-- Operation code 0 (R84). -/
def execReserved0 (s : State) : Result := reservedCode s

/-- Operation code 6 (R84). -/
def execReserved6 (s : State) : Result := reservedCode s

/-- Operation code 7 (R84). -/
def execReserved7 (s : State) : Result := reservedCode s

end Sys2Proof.Machine
end

