-- ==== Sys2Proof/Machine/Crc.lean ====
section
/-! DEFINITION. CRC-16/X-25 and the micro-operation CHK_CRC (R160 to R164 of spec/42_crc16.md). -/

namespace Sys2Proof.Machine

/-- `n` shift steps of R162; `0x8408` is the polynomial `0x1021` with its bits reversed. -/
def crcBits : Nat → BitVec 16 → BitVec 16
  | 0, c => c
  | n + 1, c => if c.getLsbD 0 then crcBits n ((c >>> 1) ^^^ 0x8408#16) else crcBits n (c >>> 1)

/-- One byte of R162: the byte enters the low half, then eight shift steps. -/
def crcByte (c : BitVec 16) (b : Byte) : BitVec 16 := crcBits 8 (c ^^^ b.setWidth 16)

/-- The register of R162 after the bytes, before the final XOR. -/
def crcRegister (c : BitVec 16) : List Byte → BitVec 16
  | [] => c
  | b :: bs => crcRegister (crcByte c b) bs

/-- `crc16_x25(D)`, least-significant-bit-first form (R162). -/
def crc16 (D : List Byte) : BitVec 16 := crcRegister 0xFFFF#16 D ^^^ 0xFFFF#16

/-- CHK_CRC (R163): the CRC of `B[1, n−4)` against the stored field. -/
def execChkCrc (s : State) : Result :=
  withRun s fun r =>
    readSeq (crcRange r.B) fun D =>
      readSeq (storedCrc r.B) fun fcs =>
        raiseIf (crc16 D != fcs) .crcMismatch s r stChkModel

end Sys2Proof.Machine
end

