-- ==== Sys2Proof/Machine/Aes.lean ====
section
/-! DEFINITION. The AES-128 forward cipher (R190 to R199 of spec/44_aes128.md). A 32-bit word is four bytes
with the first byte most significant, and the cipher state is its four columns (R191); the key schedule and
the state are local values of the cipher (R24, R29). -/

namespace Sys2Proof.Machine

/-! ### GF(2^8) and the S-box -/

/-- Multiplication by `x` modulo `0x11B` (R192). -/
def xtime (a : Byte) : Byte := if a.toNat < 0x80 then a <<< 1 else (a <<< 1) ^^^ 0x1B#8

/-- `mul2` (R192). -/
def mul2 (a : Byte) : Byte := xtime a

/-- `mul3` (R192). -/
def mul3 (a : Byte) : Byte := xtime a ^^^ a

/-- The rows of the S-box table of R193, the sixteen bytes of a row read as one number, column 0 first. -/
def sboxRow : Nat → Nat
  | 0 => 0x637c777bf26b6fc53001672bfed7ab76
  | 1 => 0xca82c97dfa5947f0add4a2af9ca472c0
  | 2 => 0xb7fd9326363ff7cc34a5e5f171d83115
  | 3 => 0x04c723c31896059a071280e2eb27b275
  | 4 => 0x09832c1a1b6e5aa0523bd6b329e32f84
  | 5 => 0x53d100ed20fcb15b6acbbe394a4c58cf
  | 6 => 0xd0efaafb434d338545f9027f503c9fa8
  | 7 => 0x51a3408f929d38f5bcb6da2110fff3d2
  | 8 => 0xcd0c13ec5f974417c4a77e3d645d1973
  | 9 => 0x60814fdc222a908846eeb814de5e0bdb
  | 10 => 0xe0323a0a4906245cc2d3ac629195e479
  | 11 => 0xe7c8376d8dd54ea96c56f4ea657aae08
  | 12 => 0xba78252e1ca6b4c6e8dd741f4bbd8b8a
  | 13 => 0x703eb5664803f60e613557b986c11d9e
  | 14 => 0xe1f8981169d98e949b1e87e9ce5528df
  | _ => 0x8ca1890dbfe6426841992d0fb054bb16

/-- `SBOX[a]` (R193): row `a div 16`, column `a mod 16` of the table. -/
def sbox (a : Byte) : Byte :=
  BitVec.ofNat 8 (sboxRow (a.toNat / 16) >>> (8 * (15 - a.toNat % 16)))

/-! ### Words and the cipher state -/

/-- The word `[b0, b1, b2, b3]` (R191). -/
def wordOf (b0 b1 b2 b3 : Byte) : Word := ((b0 ++ b1) ++ b2) ++ b3

/-- Byte `r` of a word, `r = 0 .. 3` (R191). -/
def wordByte (w : Word) (r : Nat) : Byte := w.extractLsb' (24 - 8 * r) 8

/-- Sixteen bytes as four columns: `s[r][c]` is byte `r + 4c` (R191). -/
structure AesBlock where
  c0 : Word
  c1 : Word
  c2 : Word
  c3 : Word
deriving DecidableEq, Repr

/-- The block of sixteen bytes (R191). -/
def blockOf (v : Vector Byte 16) : AesBlock :=
  ⟨wordOf v[0] v[1] v[2] v[3], wordOf v[4] v[5] v[6] v[7], wordOf v[8] v[9] v[10] v[11], wordOf v[12] v[13] v[14] v[15]⟩

/-- The four bytes of a word in order (R191). -/
def wordBytes (w : Word) : List Byte := [wordByte w 0, wordByte w 1, wordByte w 2, wordByte w 3]

/-- The sixteen bytes of a block in order (R191). -/
def blockBytes (b : AesBlock) : List Byte :=
  wordBytes b.c0 ++ (wordBytes b.c1 ++ (wordBytes b.c2 ++ wordBytes b.c3))

/-! ### The round functions -/

/-- `SubWord` (R198), and `SubBytes` on one column (R194). -/
def subWord (w : Word) : Word :=
  wordOf (sbox (wordByte w 0)) (sbox (wordByte w 1)) (sbox (wordByte w 2)) (sbox (wordByte w 3))

/-- `SubBytes` (R194). -/
def subBytes (s : AesBlock) : AesBlock := ⟨subWord s.c0, subWord s.c1, subWord s.c2, subWord s.c3⟩

/-- One column of `ShiftRows`: row `r` comes from the column `r` places on (R195). -/
def shiftColumn (a0 a1 a2 a3 : Word) : Word :=
  wordOf (wordByte a0 0) (wordByte a1 1) (wordByte a2 2) (wordByte a3 3)

/-- `ShiftRows` (R195). -/
def shiftRows (s : AesBlock) : AesBlock :=
  ⟨shiftColumn s.c0 s.c1 s.c2 s.c3, shiftColumn s.c1 s.c2 s.c3 s.c0,
    shiftColumn s.c2 s.c3 s.c0 s.c1, shiftColumn s.c3 s.c0 s.c1 s.c2⟩

/-- One column of `MixColumns`, as bytes (R196). -/
def mixBytes (a0 a1 a2 a3 : Byte) : Word :=
  wordOf (mul2 a0 ^^^ mul3 a1 ^^^ a2 ^^^ a3) (a0 ^^^ mul2 a1 ^^^ mul3 a2 ^^^ a3)
    (a0 ^^^ a1 ^^^ mul2 a2 ^^^ mul3 a3) (mul3 a0 ^^^ a1 ^^^ a2 ^^^ mul2 a3)

/-- One column of `MixColumns` (R196). -/
def mixColumn (w : Word) : Word := mixBytes (wordByte w 0) (wordByte w 1) (wordByte w 2) (wordByte w 3)

/-- `MixColumns` (R196). -/
def mixColumns (s : AesBlock) : AesBlock := ⟨mixColumn s.c0, mixColumn s.c1, mixColumn s.c2, mixColumn s.c3⟩

/-- `AddRoundKey` with the four words of the round (R197). -/
def addRoundKey (s k : AesBlock) : AesBlock := ⟨s.c0 ^^^ k.c0, s.c1 ^^^ k.c1, s.c2 ^^^ k.c2, s.c3 ^^^ k.c3⟩

/-! ### The key schedule -/

/-- `RotWord` (R198). -/
def rotWord (w : Word) : Word := wordOf (wordByte w 1) (wordByte w 2) (wordByte w 3) (wordByte w 0)

/-- The round constants `RC[1..10]` (R198). -/
def roundConstants : List Byte := [0x01#8, 0x02#8, 0x04#8, 0x08#8, 0x10#8, 0x20#8, 0x40#8, 0x80#8, 0x1b#8, 0x36#8]

/-- The word `t` of R198 where `i mod 4 = 0`: only the first byte gets the constant. -/
def scheduleWord (w : Word) (rc : Byte) : Word := subWord (rotWord w) ^^^ wordOf rc 0 0 0

/-- The next four words of the schedule from the last four (R198, four turns of its loop). -/
def nextRoundKey (k : AesBlock) (rc : Byte) : AesBlock :=
  let w0 := k.c0 ^^^ scheduleWord k.c3 rc
  let w1 := k.c1 ^^^ w0
  let w2 := k.c2 ^^^ w1
  ⟨w0, w1, w2, k.c3 ^^^ w2⟩

/-- The four words of each round from `k` on, one more block for each constant. -/
def roundKeysFrom (k : AesBlock) : List Byte → List AesBlock
  | [] => [k]
  | rc :: rcs => k :: roundKeysFrom (nextRoundKey k rc) rcs

/-- `KeyExpansion(K)` (R198): `w[4r .. 4r+3]` for `r = 0 .. 10`. -/
def roundKeys (k : AesBlock) : List AesBlock := roundKeysFrom k roundConstants

/-- The key schedule as the words `w[0] .. w[43]` (R198). -/
def keyWords (k : AesBlock) : List Word := (roundKeys k).flatMap fun b => [b.c0, b.c1, b.c2, b.c3]

/-! ### The cipher -/

/-- The rounds after the first AddRoundKey; the last one has no MixColumns (R199). -/
def aesRounds (s : AesBlock) : List AesBlock → AesBlock
  | [] => s
  | [k] => addRoundKey (shiftRows (subBytes s)) k
  | k :: ks => aesRounds (addRoundKey (mixColumns (shiftRows (subBytes s))) k) ks

/-- The cipher with a given schedule (R199). -/
def aesWithKeys (ks : List AesBlock) (x : AesBlock) : AesBlock :=
  match ks with
  | [] => x
  | k :: ks => aesRounds (addRoundKey x k) ks

/-- `AES128_ENC(K, X)` (R190, R199). -/
def aes128 (k x : AesBlock) : AesBlock := aesWithKeys (roundKeys k) x

end Sys2Proof.Machine
end

