-- ==== Sys2Proof/Machine/Decryptor.lean ====
section
/-! DEFINITION. The decryptor: CHK_KEY, NONCE, CTR, INTEG (R170 to R178 of spec/43_decryptor.md). -/

namespace Sys2Proof.Machine

/-- CHK_KEY (R172). -/
def execChkKey (s : State) : Result :=
  withRun s fun r => raiseIf (!s.key_valid) .keyNotLoaded s r stNonce

/-- NONCE (R171). -/
def execNonce (s : State) : Result :=
  withRun s fun r =>
    readSeq (nonceOf r.B) fun nb => advance s { r with NB := nb } stCtr

/-- `CB_i` (R173): the nonce block with byte 15 replaced by `0x02 + i`. -/
def counterBlock (nb : AesBlock) (i : Nat) : AesBlock :=
  { nb with c3 := wordOf (wordByte nb.c3 0) (wordByte nb.c3 1) (wordByte nb.c3 2) (BitVec.ofNat 8 (2 + i)) }

/-- `KS_i` (R173). -/
def keystreamBlock (key nb : AesBlock) (i : Nat) : List Byte := blockBytes (aes128 key (counterBlock nb i))

/-- `nb = (L + 15) div 16`, the number of cipher blocks (R173). -/
def blockCount (L : Nat) : Nat := (L + 15) / 16

/-- The keystream of `n` blocks from block `i` on (R173). -/
def keystreamFrom (key nb : AesBlock) (i : Nat) : Nat → List Byte
  | 0 => []
  | n + 1 => keystreamBlock key nb i ++ keystreamFrom key nb (i + 1) n

/-- The bytewise XOR of two sequences, as long as the first where the second is no shorter. -/
def xorBytes : List Byte → List Byte → List Byte
  | a :: as, b :: bs => (a ^^^ b) :: xorBytes as bs
  | _, _ => []

/-- CTR over a ciphertext (R174): `P[t] = C[t] xor KS_(t div 16)[t mod 16]`. -/
def ctrCrypt (key nb : AesBlock) (C : List Byte) : List Byte :=
  xorBytes C (keystreamFrom key nb 0 (blockCount C.length))

/-- CTR (R174): the payload is as long as the ciphertext; with an empty ciphertext it is
empty and no block is computed (R174 corner case a). -/
def execCtr (s : State) : Result :=
  withRun s fun r =>
    readSeq (ciphertext r.B) fun C =>
      advance s { r with PB := ctrCrypt (blockOf s.KEY) (blockOf r.NB) C } stInteg

/-- INTEG (R175). -/
def execInteg (s : State) : Result :=
  withRun s fun r => raiseIf (!markersOk r.PB) .integrityCheckFailed s r stExtract

end Sys2Proof.Machine
end

