-- ==== Sys2Proof/Machine/Extractor.lean ====
section
/-! DEFINITION. The register extractor (R210 to R212 of spec/45_register_extractor.md). -/

namespace Sys2Proof.Machine

/-- The eight big-endian reads of R211, or none when a field would be out of bounds (`L < 39`). -/
def extractRegs (P : List Byte) : Option (Vector Word 8) :=
  if h : extractMin ≤ P.length then
    some (Vector.ofFn fun i : Fin 8 =>
      be32 P (regOffset P.length i.val) (by have := i.isLt; simp only [regOffset, extractMin] at *; omega))
  else none

/-- EXTRACT (R211): all eight registers, or OutOfBounds and none. -/
def execExtract (s : State) : Result :=
  withRun s fun r =>
    match extractRegs r.PB with
    | some x => advance s { r with x := x } stMapE
    | none => raise s r .extractionOutOfBounds

end Sys2Proof.Machine
end

