-- ==== Sys2Proof/Machine/Mapper.lean ====
section
/-! DEFINITION. The value mapper: binary32 rounding, MAP_E, MAP_P, MAP_S, PUBLISH (R220 to R227 of
spec/46_value_mapper.md). -/

namespace Sys2Proof.Machine

/-! ### Rounding to binary32 -/

/-- The integer nearest to `a / d`, the even one when it lies halfway (R225). -/
def roundHalfEven (a d : Nat) : Nat :=
  let q := a / d
  let r := a % d
  if 2 * r < d then q
  else if d < 2 * r then q + 1
  else if q % 2 = 0 then q else q + 1

/-- The integer `e` with `2^e ≤ num / den < 2^(e+1)` (R225), for `num, den > 0`. -/
def floorLog2 (num den : Nat) : Int :=
  (Nat.log2 (num * 2 ^ (Nat.log2 den + 1) / den) : Int) - ((Nat.log2 den + 1 : Nat) : Int)

/-- The integer `M` nearest to `(num / den) / 2^(e−23)` (R225). -/
def significand (num den : Nat) (e : Int) : Nat :=
  roundHalfEven (num * 2 ^ (23 - e).toNat) (den * 2 ^ (e - 23).toNat)

/-- A positive normal number with biased exponent `E` and significand `M` (R221): sign 0, `F = M − 2^23`. -/
def packFloat (E : Int) (M : Nat) : Binary32 := BitVec.ofNat 32 (E.toNat * 2 ^ 23 + (M - 2 ^ 23))

/-- `RN32(num / den)` for an exact non-negative rational (R225). -/
def rn32 (num den : Nat) : Binary32 :=
  if num = 0 then 0
  else
    let e := floorLog2 num den
    let M := significand num den e
    if M = 2 ^ 24 then packFloat (e + 1 + 127) (2 ^ 23) else packFloat (e + 127) M

/-! ### Energies and powers -/

/-- `RN32((x mod 1000000) / 1000)` (R220). -/
def scaleEnergy (x : Word) : Binary32 := rn32 (x.toNat % Config.energyMod) Config.energyDiv

/-- `RN32(x)` (R222). -/
def passPower (x : Word) : Binary32 := rn32 x.toNat 1

/-- MAP_E (R220). -/
def execMapE (s : State) : Result :=
  withRun s fun r =>
    advance s { r with e := Vector.ofFn fun i : Fin 4 => scaleEnergy r.x[i.val] } stMapP

/-- MAP_P (R222). -/
def execMapP (s : State) : Result :=
  withRun s fun r =>
    advance s { r with p := Vector.ofFn fun j : Fin 4 => passPower r.x[4 + j.val] } stMapS

/-! ### Decimal strings -/

/-- The base-10 digits of `v`, least significant first, at most as many as the first argument. -/
def digitsUp : Nat → Nat → List Nat
  | 0, _ => []
  | k + 1, v => if v < 10 then [v] else v % 10 :: digitsUp k (v / 10)

/-- The base-10 digits, most significant first, no leading zero (R223); a 32-bit value has at most ten. -/
def decDigits (v : Nat) : List Nat := (digitsUp Config.strMax v).reverse

/-- The decimal string of a register (R223): ASCII digits, unused cells 0. -/
def decStr (x : Word) : DecStr where
  len := BitVec.ofNat 4 (decDigits x.toNat).length
  chr := Vector.ofFn fun t : Fin 10 =>
    match (decDigits x.toNat)[t.val]? with
    | some d => BitVec.ofNat 8 (0x30 + d)
    | none => 0x00#8

/-- MAP_S (R223). -/
def execMapS (s : State) : Result :=
  withRun s fun r =>
    advance s { r with s := Vector.ofFn fun i : Fin 4 => decStr r.x[i.val] } stPublish

/-- PUBLISH (R227): the twelve channels together, `code = 0`; the sequencer goes to DONE (R125). -/
def execPublish (s : State) : Result :=
  withRun s fun r =>
    .next { s with run := some { r with code := 0, stage := stDone }, res := readingRecord r }

end Sys2Proof.Machine
end

