-- ==== Sys2Proof/Machine/Validator.lean ====
section
/-! DEFINITION. The length validator and the model-identifier check: CHK_MIN, CHK_OPEN, CHK_LEN, CHK_CLOSE,
CHK_MODEL (R140 to R145 of spec/41_frame_validator.md). -/

namespace Sys2Proof.Machine

/-- CHK_MIN (R140): `n < 33` raises TooShort. -/
def execChkMin (s : State) : Result :=
  withRun s fun r => raiseIf (decide (r.n < Config.minFrameLen)) .tooShort s r stChkOpen

/-- CHK_OPEN (R141): both bytes of the opening marker must match. -/
def execChkOpen (s : State) : Result :=
  withRun s fun r =>
    readSeq r.B[0]? fun b0 =>
      readSeq r.B[1]? fun b1 =>
        raiseIf (b0 != flagOpen || b1 != fmtByte) .badOpeningMarker s r stChkLen

/-- CHK_LEN (R142): `n ≠ B[2] + 2`, the sum taken as an integer. -/
def execChkLen (s : State) : Result :=
  withRun s fun r =>
    readSeq r.B[2]? fun b2 => raiseIf (r.n != declaredLen b2) .lengthMismatch s r stChkClose

/-- CHK_CLOSE (R143): `B[n−1]`. -/
def execChkClose (s : State) : Result :=
  withRun s fun r =>
    readSeq r.B[r.n - 1]? fun b => raiseIf (b != flagClose) .badClosingMarker s r stChkCrc

/-- CHK_MODEL (R145): sets `warn`, never raises. -/
def execChkModel (s : State) : Result :=
  withRun s fun r =>
    readSeq (modelField r.B) fun m => advance s { r with warn := modelWarning m } stChkKey

end Sys2Proof.Machine
end

