-- ==== Sys2Proof/Machine/Sequencer.lean ====
section
/-! DEFINITION. DONE, the sequencer (R125 of spec/40_frame_synchronizer.md, R105 of spec/30_encoding.md) and
POLL (R124), which runs the whole sequence inside its one step (R6). -/

namespace Sys2Proof.Machine

/-- DONE (R125): the run has ended and its transient state no longer exists (R24). With no run in progress
nothing happens (log entry 8). -/
def execDone (s : State) : Result := .next { s with run := none }

/-- The micro-operation that a sequencer position selects (R105); the last line is code 15. -/
def microOp (stage : StageCode) (s : State) : Result :=
  match stage.toNat with
  | 0 => execDone s
  | 1 => execChkMin s
  | 2 => execChkOpen s
  | 3 => execChkLen s
  | 4 => execChkClose s
  | 5 => execChkCrc s
  | 6 => execChkModel s
  | 7 => execChkKey s
  | 8 => execNonce s
  | 9 => execCtr s
  | 10 => execInteg s
  | 11 => execExtract s
  | 12 => execMapE s
  | 13 => execMapP s
  | 14 => execMapS s
  | _ => execPublish s

/-- Micro-operations one after another until the run has ended, at most `k` of them. -/
def runToDone : Nat → State → Result
  | 0, s => .next s
  | k + 1, s =>
    match s.run with
    | none => .next s
    | some r =>
      match microOp r.stage s with
      | .next s' => runToDone k s'
      | .fault f => .fault f
      | .refused f => .refused f

/-- The fifteen micro-operations and DONE (R105). -/
def runLength : Nat := 16

/-- `RUN` (R125) on the snapshot `B` of a flush. -/
def runFrame (s : State) (B : List Byte) : Result := runToDone runLength (openRun s B)

/-- POLL (R124). -/
def execPoll (now : Time) (s : State) : Result :=
  if frameComplete s now then
    runFrame s (Memory.readBytes s.FB 0 s.len.val)
  else .next (emitEmpty s)

end Sys2Proof.Machine
end

