-- ==== Sys2Proof/Syntax.lean ====
section
/-! DEFINITION. The instructions: one constructor for each of the 24 rows of spec/opcode_table.json, that is
the eight operation codes of the command word (R81, R84) and the sixteen codes of the sequencer (R105).
An operand has the width the spec gives it, so that every value of it is legal (R82, R121 to R124); bits of the command word that a
command does not use are no operands (R83). -/

namespace Sys2Proof

inductive Instr where
  /-- RESET, op 1 (R120). -/
  | reset
  /-- KEYLOAD, op 2: the sixteen key bytes, `k[i] = K[i]` (R121). -/
  | keyload (k : Vector Byte 16)
  /-- SETTO, op 3: the timeout (R122). -/
  | setto (t : Time)
  /-- APPEND, op 4: the data byte and the time of its arrival (R123). -/
  | append (b : Byte) (now : Time)
  /-- POLL, op 5: the time of the poll (R124). -/
  | poll (now : Time)
  /-- The reserved operation code 0 (R84). -/
  | reserved0
  /-- The reserved operation code 6 (R84). -/
  | reserved6
  /-- The reserved operation code 7 (R84). -/
  | reserved7
  /-- DONE, stage 0: the end of a run, idle (R125). -/
  | done
  /-- CHK_MIN, stage 1 (R140). -/
  | chkMin
  /-- CHK_OPEN, stage 2 (R141). -/
  | chkOpen
  /-- CHK_LEN, stage 3 (R142). -/
  | chkLen
  /-- CHK_CLOSE, stage 4 (R143). -/
  | chkClose
  /-- CHK_CRC, stage 5 (R163). -/
  | chkCrc
  /-- CHK_MODEL, stage 6 (R145). -/
  | chkModel
  /-- CHK_KEY, stage 7 (R172). -/
  | chkKey
  /-- NONCE, stage 8 (R171). -/
  | nonce
  /-- CTR, stage 9 (R174). -/
  | ctr
  /-- INTEG, stage 10 (R175). -/
  | integ
  /-- EXTRACT, stage 11 (R211). -/
  | extract
  /-- MAP_E, stage 12 (R220). -/
  | mapE
  /-- MAP_P, stage 13 (R222). -/
  | mapP
  /-- MAP_S, stage 14 (R223). -/
  | mapS
  /-- PUBLISH, stage 15 (R227). -/
  | publish
deriving DecidableEq, Repr

end Sys2Proof
end

