-- ==== Sys2Proof/Machine/Dispatch.lean ====
section
/-! DEFINITION. The meaning of every instruction: one arm per constructor. -/

namespace Sys2Proof.Machine

/-- One instruction. -/
def exec (i : Instr) (s : State) : Host.Outcome State Fault Refusal :=
  match i with
  | .reset => Sys2Proof.Machine.execReset s
  | .keyload k => Sys2Proof.Machine.execKeyload k s
  | .setto t => Sys2Proof.Machine.execSetto t s
  | .append b now => Sys2Proof.Machine.execAppend b now s
  | .poll now => Sys2Proof.Machine.execPoll now s
  | .reserved0 => Sys2Proof.Machine.execReserved0 s
  | .reserved6 => Sys2Proof.Machine.execReserved6 s
  | .reserved7 => Sys2Proof.Machine.execReserved7 s
  | .done => Sys2Proof.Machine.execDone s
  | .chkMin => Sys2Proof.Machine.execChkMin s
  | .chkOpen => Sys2Proof.Machine.execChkOpen s
  | .chkLen => Sys2Proof.Machine.execChkLen s
  | .chkClose => Sys2Proof.Machine.execChkClose s
  | .chkCrc => Sys2Proof.Machine.execChkCrc s
  | .chkModel => Sys2Proof.Machine.execChkModel s
  | .chkKey => Sys2Proof.Machine.execChkKey s
  | .nonce => Sys2Proof.Machine.execNonce s
  | .ctr => Sys2Proof.Machine.execCtr s
  | .integ => Sys2Proof.Machine.execInteg s
  | .extract => Sys2Proof.Machine.execExtract s
  | .mapE => Sys2Proof.Machine.execMapE s
  | .mapP => Sys2Proof.Machine.execMapP s
  | .mapS => Sys2Proof.Machine.execMapS s
  | .publish => Sys2Proof.Machine.execPublish s

end Sys2Proof.Machine
end

