-- ==== Sys2Proof/WellFormed.lean ====
section
/-! DEFINITION. What is well formed. An operand of an instruction cannot be ill formed: R121 ('every 128-bit
value is a legal key'), R122 ('all values are legal'), R123 ('the byte is stored whatever its value') and R124
put no condition on an operand, and its width is its type. What can be ill formed is a raw word that does not
fit its format (R80, R105), and a trace: R106 makes a trace a sequence of the five host commands, so a
micro-operation in it (R3, R105 'not decoded from any input') or a reserved code (R84, U2) is none. -/

namespace Sys2Proof

/-- The instruction is one of the sixteen sequencer codes (R105), which no input decodes to (R3). -/
def Instr.isStage : Instr → Bool
  | .reset | .keyload _ | .setto _ | .append _ _ | .poll _ => false
  | .reserved0 | .reserved6 | .reserved7 => false
  | .done | .chkMin | .chkOpen | .chkLen | .chkClose | .chkCrc | .chkModel | .chkKey => true
  | .nonce | .ctr | .integ | .extract | .mapE | .mapP | .mapS | .publish => true

/-- The instruction is one of the reserved operation codes 0, 6 and 7 (R84). -/
def Instr.isReserved : Instr → Bool
  | .reserved0 | .reserved6 | .reserved7 => true
  | .reset | .keyload _ | .setto _ | .append _ _ | .poll _ => false
  | .done | .chkMin | .chkOpen | .chkLen | .chkClose | .chkCrc | .chkModel | .chkKey => false
  | .nonce | .ctr | .integ | .extract | .mapE | .mapP | .mapS | .publish => false

/-- A trace of R106: every element is one of the five host commands. -/
def Trace.wellFormed (t : List Instr) : Bool := t.all fun i => !i.isStage && !i.isReserved

/-- A raw word of `nbits` bits, numbered as spec/opcode_table.json numbers them: up to 8 bits (one byte) it is
a code of format STAGE and fits if it has 4 bits, above that it is a word of format CMD and fits if it has
163 bits. -/
def RawWord.wellFormed (nbits w : Nat) : Bool := if nbits ≤ 8 then w < 2 ^ 4 else w < 2 ^ 163

end Sys2Proof
end

