-- ==== Sys2Proof/Decode.lean ====
section
/-! DEFINITION. The decoder of the command word and of the sequencer code (R80 to R84 and R105 of
spec/30_encoding.md), total on every word of either format and refusing by name a raw word that is of
neither; and the encoder, written from the same tables (R82, R106). -/

namespace Sys2Proof

/-- A word of one of the two formats of spec/opcode_table.json. -/
inductive CodeWord where
  /-- Format CMD: a word at the command port (R80). -/
  | cmd (w : CmdWord)
  /-- Format STAGE: a value of the sequencer position (R105). -/
  | stage (c : StageCode)
deriving DecidableEq, Repr

/-- Why a raw word is not decoded. -/
inductive DecodeError where
  /-- More than the 163 bits of a command word (R80). -/
  | commandTooWide
  /-- More than the 4 bits of a sequencer code (R105). -/
  | stageTooWide
deriving DecidableEq, Repr

/-! ### The fields of the command word -/

/-- `op = cw[2:0]` (R80). -/
def opField (w : CmdWord) : BitVec 3 := w.extractLsb' 0 3

/-- `now = cw[34:3]` (R80). -/
def nowField (w : CmdWord) : Time := w.extractLsb' 3 32

/-- `arg = cw[162:35]` (R80). -/
def argField (w : CmdWord) : BitVec 128 := w.extractLsb' 35 128

/-- Byte lane `i` of the argument, `arg[8i+7 : 8i]` (R82). -/
def argByte (arg : BitVec 128) (i : Nat) : Byte := arg.extractLsb' (8 * i) 8

/-- The operand of KEYLOAD: `K[i] = arg[8i+7 : 8i]` (R82). -/
def keyOperand (arg : BitVec 128) : Vector Byte 16 := Vector.ofFn fun i => argByte arg i.val

/-- The operand of SETTO: `t = arg[31:0]` (R82). -/
def timeoutOperand (arg : BitVec 128) : Time := arg.extractLsb' 0 32

/-- The operand `b` of APPEND: `arg[7:0]` (R82). -/
def byteOperand (arg : BitVec 128) : Byte := argByte arg 0

/-! ### Decoding -/

/-- The decoder looks at `cw[2:0]` and at nothing else (R81); the operands are those of R82. -/
def decodeCmd (w : CmdWord) : Instr :=
  match (opField w).toFin with
  | 0 => .reserved0
  | 1 => .reset
  | 2 => .keyload (keyOperand (argField w))
  | 3 => .setto (timeoutOperand (argField w))
  | 4 => .append (byteOperand (argField w)) (nowField w)
  | 5 => .poll (nowField w)
  | 6 => .reserved6
  | 7 => .reserved7

/-- The micro-operation a sequencer code names (R105); the last line is code 15, the one left of four bits. -/
def decodeStage (c : StageCode) : Instr :=
  match c.toNat with
  | 0 => .done
  | 1 => .chkMin
  | 2 => .chkOpen
  | 3 => .chkLen
  | 4 => .chkClose
  | 5 => .chkCrc
  | 6 => .chkModel
  | 7 => .chkKey
  | 8 => .nonce
  | 9 => .ctr
  | 10 => .integ
  | 11 => .extract
  | 12 => .mapE
  | 13 => .mapP
  | 14 => .mapS
  | _ => .publish

/-- Decoding of a word of either format. -/
def decode : CodeWord → Instr
  | .cmd w => decodeCmd w
  | .stage c => decodeStage c

/-- A raw word of `nbits` bits as a word of its format: one byte holds a sequencer code, anything longer a
command word (the two widths of spec/opcode_table.json, 4 and 163, in whole bytes). -/
def readRawWord (nbits w : Nat) : Except DecodeError CodeWord :=
  if nbits ≤ 8 then
    if w < 2 ^ 4 then .ok (.stage (BitVec.ofNat 4 w)) else .error .stageTooWide
  else
    if w < 2 ^ 163 then .ok (.cmd (BitVec.ofNat 163 w)) else .error .commandTooWide

/-- The instruction the decoder reads from a word numbered as spec/opcode_table.json numbers its bits. -/
def decodeTableWord (nbits w : Nat) : Option Instr :=
  match readRawWord nbits w with
  | .ok cw => some (decode cw)
  | .error _ => none

/-! ### Encoding -/

/-- The command word with the three fields of R80, `cw = arg · 2^35 + now · 2^3 + op` (R106). -/
def cmdWord (op : BitVec 3) (now : Time) (arg : BitVec 128) : CmdWord :=
  BitVec.ofNat 163 (arg.toNat * 2 ^ 35 + now.toNat * 2 ^ 3 + op.toNat)

/-- `Σ bytes[i] · 2^(8i)` (R106). -/
def packBytes : List Byte → Nat
  | [] => 0
  | b :: bs => b.toNat + 256 * packBytes bs

/-- The argument of KEYLOAD: `arg = Σ k_i · 2^(8i)` (R106). -/
def keyArg (k : Vector Byte 16) : BitVec 128 := BitVec.ofNat 128 (packBytes k.toList)

/-- The word of an instruction, unused bits 0 (R106); a micro-operation has the code of R105. -/
def encode : Instr → CodeWord
  | .reserved0 => .cmd (cmdWord 0 0 0)
  | .reset => .cmd (cmdWord 1 0 0)
  | .keyload k => .cmd (cmdWord 2 0 (keyArg k))
  | .setto t => .cmd (cmdWord 3 0 (t.setWidth 128))
  | .append b now => .cmd (cmdWord 4 now (b.setWidth 128))
  | .poll now => .cmd (cmdWord 5 now 0)
  | .reserved6 => .cmd (cmdWord 6 0 0)
  | .reserved7 => .cmd (cmdWord 7 0 0)
  | .done => .stage 0
  | .chkMin => .stage 1
  | .chkOpen => .stage 2
  | .chkLen => .stage 3
  | .chkClose => .stage 4
  | .chkCrc => .stage 5
  | .chkModel => .stage 6
  | .chkKey => .stage 7
  | .nonce => .stage 8
  | .ctr => .stage 9
  | .integ => .stage 10
  | .extract => .stage 11
  | .mapE => .stage 12
  | .mapP => .stage 13
  | .mapS => .stage 14
  | .publish => .stage 15

end Sys2Proof
end

