-- ==== Sys2Proof/Machine/Fetch.lean ====
section
/-! DEFINITION. What the block takes next: an asserted reset input before anything else (R270, R273), the
sequencer's next micro-operation while a run is in progress (R27), else the oldest command word at the port
(R80); and the traces of R106 to R108 as host events. -/

namespace Sys2Proof.Machine

/-- What a step does. -/
inductive Action where
  /-- The hardware reset input is asserted (R270). -/
  | reset
  /-- An instruction. -/
  | instr (i : Instr)
  /-- Nothing is waiting (R254: the block 'holds its persistent state and does nothing'). -/
  | idle
deriving DecidableEq, Repr

/-- The next action, and the state after the host event it came from, if any, was taken. -/
def fetch (s : State) : Action × State :=
  match s.port with
  | .resetInput :: rest => (.reset, { s with port := rest })
  | [] =>
    match s.run with
    | some r => (.instr (decodeStage r.stage), s)
    | none => (.idle, s)
  | .command w :: rest =>
    match s.run with
    | some r => (.instr (decodeStage r.stage), s)
    | none => (.instr (decodeCmd w), { s with port := rest })

/-- A step with nothing waiting: the persistent state stays, and the record of the step before is no longer
presented (R100, R286; log entry 2). -/
def idleStep (s : State) : Result := .next (emitEmpty s)

/-- The effect of the hardware reset input: that of RESET (R270); a run in progress is abandoned (R273). -/
def resetInputStep (s : State) : Result := .next (applyReset s)

/-! ### Placing the next instruction -/

/-- The stand-in frame on which a micro-operation placed from outside runs when no run is in progress: the
shortest that CHK_MIN lets pass, 33 zero bytes (log entry 3). -/
def standInFrame : List Byte := List.replicate 33 0x00#8

/-- The host events without leading assertions of the reset input. -/
def dropResets : List HostEvent → List HostEvent
  | .resetInput :: es => dropResets es
  | es => es

/-- The state with a word placed where the next step takes its instruction: a command word at the front of the
port with no run in progress, a sequencer code as the position of the run in progress, or of one opened on the
stand-in frame. -/
def placeWord (s : State) : CodeWord → State
  | .cmd w => { s with run := none, port := .command w :: s.port }
  | .stage c =>
    match s.run with
    | some r => { s with run := some { r with stage := c }, port := dropResets s.port }
    | none => { s with run := some { startRun standInFrame with stage := c }, port := dropResets s.port }

/-! ### Traces (R106 to R108) -/

/-- The host event of a trace line: its command word (R106); a micro-operation is no trace line. -/
def eventOf (i : Instr) : Option HostEvent :=
  match encode i with
  | .cmd w => some (.command w)
  | .stage _ => none

/-- A trace as host events. -/
def eventsOf (t : List Instr) : List HostEvent := t.filterMap eventOf

/-- `FEED @t0 +d : b0 .. ` (R107): one APPEND every `d` time units, times modulo 2^32. -/
def feed (t0 d : Time) : List Byte → List Instr
  | [] => []
  | b :: bs => .append b t0 :: feed (t0 + d) d bs

/-- `TICK @t : b0 .. ` (R108): the APPENDs at `t`, then one POLL at `t`. -/
def tick (t : Time) (bs : List Byte) : List Instr := (bs.map fun b => .append b t) ++ [.poll t]

/-- A state with a trace presented at the command port. -/
def loadTrace (s : State) (t : List Instr) : State := { s with port := eventsOf t }

end Sys2Proof.Machine
end

