-- ==== Sys2Proof/Machine/Step.lean ====
section
/-! DEFINITION. One step of the block (R6): the action that fetch names, performed. -/

namespace Sys2Proof.Machine

/-- One step. -/
def step (s : State) : Host.Outcome State Fault Refusal :=
  match fetch s with
  | (.reset, s') => resetInputStep s'
  | (.instr i, s') => exec i s'
  | (.idle, s') => idleStep s'

/-- The state with the word of `nbits` bits stored where the next step fetches its instruction (log entries 1
and 3); a word of no format leaves the state as it is. -/
def State.withFetchWord (s : State) (nbits w : Nat) : State :=
  match readRawWord nbits w with
  | .ok cw => placeWord s cw
  | .error _ => s

end Sys2Proof.Machine
end

