-- ==== Sys2Proof/Machine/Channels.lean ====
section
/-! DEFINITION. The names and numbers of the raw registers and of the channels of a reading (R26 of
spec/10_state.md, R101 of spec/30_encoding.md). No rule of the block computes with them; a serialising adapter
publishes the channels of a reading in ascending number. -/

namespace Sys2Proof.Machine

/-- The names of `x[0]` .. `x[7]` (R26). -/
def registerNames : List String :=
  ["active_energy_pos", "active_energy_neg", "reactive_energy_pos", "reactive_energy_neg",
    "active_power_pos", "active_power_neg", "reactive_power_pos", "reactive_power_neg"]

/-- The names of channels 0 to 11 (R101): a string channel is named after its register with `_raw`. -/
def channelNames : List String := registerNames ++ (registerNames.take 4).map (· ++ "_raw")

/-- A value given to the sink (R101): a binary32 number or a decimal string. -/
inductive ChannelValue where
  | number (v : Binary32)
  | decimal (s : DecStr)
deriving DecidableEq, Repr

/-- What `publish(channel, value)` is called with for one record, in ascending channel number (R101): twelve
values for a reading, none for any other record. -/
def publishedChannels (c : ResultRecord) : List (Nat × ChannelValue) :=
  if c.rd_valid then
    (List.finRange 4).map (fun i => (i.val, .number c.e[i.val])) ++
      ((List.finRange 4).map (fun i => (4 + i.val, .number c.p[i.val])) ++
        (List.finRange 4).map (fun i => (8 + i.val, .decimal ⟨c.s_len[i.val], c.s_chr[i.val]⟩)))
  else []

end Sys2Proof.Machine
end

