-- ==== Sys2Proof/Safety.lean ====
section
/-! DEFINITION. What a safe run is: the properties of a ValidFrame (R147 of spec/41_frame_validator.md), the
invariant that every step keeps, and the outcome R14 of spec/00_scope.md allows a step. -/

namespace Sys2Proof.Machine

/-- What checks 1 to 5 establish (R147). -/
abbrev ValidFrame (B : List Byte) : Prop :=
  33 ≤ B.length ∧ B.length ≤ 257 ∧
  B[0]? = some flagOpen ∧ B[1]? = some fmtByte ∧
  B[2]?.map declaredLen = some B.length ∧
  B[B.length - 1]? = some flagClose ∧
  (crcRange B).map crc16 = storedCrc B

/-- What holds of a run whose sequencer stands at `stage`: the snapshot is not empty and fits the buffer, and
each check passed on the way has established what it checks (R125). At DONE only the snapshot's bounds hold. -/
abbrev RunOk (key_valid : Bool) (r : Run) : Prop :=
  (1 ≤ r.n ∧ r.n ≤ Config.bufCap) ∧
  (r.stage ≠ stDone → r.code = 0) ∧
  (2 ≤ r.stage.toNat → Config.minFrameLen ≤ r.n) ∧
  (3 ≤ r.stage.toNat → r.B[0]? = some flagOpen ∧ r.B[1]? = some fmtByte) ∧
  (4 ≤ r.stage.toNat → r.B[2]?.map declaredLen = some r.n) ∧
  (5 ≤ r.stage.toNat → r.B[r.n - 1]? = some flagClose) ∧
  (6 ≤ r.stage.toNat → ValidFrame r.B) ∧
  (1 ≤ r.stage.toNat → r.stage.toNat ≤ 6 → r.warn = false) ∧
  (8 ≤ r.stage.toNat → key_valid = true) ∧
  (9 ≤ r.stage.toNat → nonceOf r.B = some r.NB) ∧
  (10 ≤ r.stage.toNat → r.L = r.n - Config.overhead) ∧
  (11 ≤ r.stage.toNat → markersOk r.PB = true)

/-- What holds of the record at the result port: the flags agree with each other (R100), code 7 and the codes
above 8 do not occur (R240, R241), the warning is 0 with codes 1 to 5 (R246), and a record without a reading has all
reading fields 0 (R100, R243). -/
abbrev RecordOk (c : ResultRecord) : Prop :=
  c.rd_valid = (c.res_valid && decide (c.res_code = 0)) ∧
  (c.res_valid = false → c = ResultRecord.empty) ∧
  (c.rd_valid = false → c.e = ResultRecord.empty.e ∧ c.p = ResultRecord.empty.p ∧
    c.s_len = ResultRecord.empty.s_len ∧ c.s_chr = ResultRecord.empty.s_chr) ∧
  c.res_code.toNat ≤ 8 ∧ c.res_code ≠ 7 ∧
  (1 ≤ c.res_code.toNat → c.res_code.toNat ≤ 5 → c.res_warn = false)

/-- `RunOk` as a check. -/
def runOk (key_valid : Bool) (r : Run) : Bool := decide (RunOk key_valid r)

/-- `RecordOk` as a check. -/
def recordOk (c : ResultRecord) : Bool := decide (RecordOk c)

/-- The invariant: FB is in canonical form and lists no cell at or above `len` (R20); KEY has the filler while
`key_valid` is 0 (R23; log entry 6); the run, if one is in progress, and the record are as above. That `len` is at most 258 is its type. -/
abbrev BlockInv (s : State) : Prop :=
  (Memory.wf s.FB ∧ ∀ c ∈ s.FB, c.1 < s.len.val) ∧
  (s.key_valid = false → s.KEY = noKey) ∧
  (∀ r ∈ s.run, runOk s.key_valid r = true) ∧
  recordOk s.res = true

/-- The outcome of a safe step: the block goes on (R14). -/
def goesOn (r : Result) : Prop := ∃ t, r = .next t

end Sys2Proof.Machine
end

