-- ==== Sys2Proof/Certificates/Slice0/Obligations.lean ====
section
/-! DEFINITION. The statements for the provers. Reference definitions that a statement compares the machine with
stand before it, under Sys2Proof.Ref; they are written from the rules, not from the machine's own meanings. A
rule's mark in the spec ([decision: ..], [derived: ..], [from general knowledge, not in source]) is named in
the docstring. Two choices of the model stand under many statements: host events wait in `port` (log entry 1), and a
micro-operation is an instruction of its own on a run in progress (log entry 4). -/

open Sys2Proof Sys2Proof.Machine

/-! ### Encoding -/

/-- R80 to R82, R105, R106 (decisions D2, D25, D26): decoding the word of an instruction gives it back, with every operand at
every value. -/
def Obligations.DecodeEncodeAgree : Prop := ∀ i : Instr, decode (encode i) = i

/-- R81 and R82 (decision D2): `cw[2:0]` alone selects the command, and the operands are the bits of `cw` that R82 names,
each as an unsigned number; key byte `i` is `cw[35+8i+7 : 35+8i]`. -/
def Obligations.CommandOperandBits : Prop :=
  ∀ w : CmdWord,
    (w.toNat % 8 = 0 → decodeCmd w = .reserved0) ∧
    (w.toNat % 8 = 1 → decodeCmd w = .reset) ∧
    (w.toNat % 8 = 2 → ∃ k, decodeCmd w = .keyload k ∧
      ∀ i : Fin 16, (k[i.val]).toNat = w.toNat / 2 ^ (35 + 8 * i.val) % 256) ∧
    (w.toNat % 8 = 3 → ∃ t, decodeCmd w = .setto t ∧ t.toNat = w.toNat / 2 ^ 35 % 2 ^ 32) ∧
    (w.toNat % 8 = 4 → ∃ b now, decodeCmd w = .append b now ∧
      b.toNat = w.toNat / 2 ^ 35 % 256 ∧ now.toNat = w.toNat / 8 % 2 ^ 32) ∧
    (w.toNat % 8 = 5 → ∃ now, decodeCmd w = .poll now ∧ now.toNat = w.toNat / 8 % 2 ^ 32) ∧
    (w.toNat % 8 = 6 → decodeCmd w = .reserved6) ∧
    (w.toNat % 8 = 7 → decodeCmd w = .reserved7)

/-- R83 (decision D3): two command words with the same operation code that differ only in bits the command does not use
(all of `now` and `arg` for RESET; `now` for KEYLOAD and SETTO; `arg[127:32]` for SETTO; `arg[127:8]` for APPEND; all of
`arg` for POLL) are one instruction, so that the block does the same for both in every state. -/
def Obligations.UnusedCommandBitsIgnored : Prop :=
  ∀ w w' : CmdWord, w.extractLsb' 0 3 = w'.extractLsb' 0 3 →
    (w.extractLsb' 0 3 = 1 → decodeCmd w = decodeCmd w') ∧
    (w.extractLsb' 0 3 = 2 → w.extractLsb' 35 128 = w'.extractLsb' 35 128 → decodeCmd w = decodeCmd w') ∧
    (w.extractLsb' 0 3 = 3 → w.extractLsb' 35 32 = w'.extractLsb' 35 32 → decodeCmd w = decodeCmd w') ∧
    (w.extractLsb' 0 3 = 4 → w.extractLsb' 35 8 = w'.extractLsb' 35 8 →
      w.extractLsb' 3 32 = w'.extractLsb' 3 32 → decodeCmd w = decodeCmd w') ∧
    (w.extractLsb' 0 3 = 5 → w.extractLsb' 3 32 = w'.extractLsb' 3 32 → decodeCmd w = decodeCmd w')

/-- Words that the spec writes out (programs PR1, PR2 and PR4 of 95_test_vectors.md) decode to the instruction they stand for;
and the codes of R105 do. That `decodeTableWord` reads a word of up to 8 bits as a sequencer code, and refuses 0x10, which is
wider than the 4-bit `stage`, is the model's choice (log entry 3): R3 and R105 decode such codes from no input. -/
def Obligations.SpecWordsDecode : Prop :=
  decodeTableWord 168 0x1 = some .reset ∧
  decodeTableWord 168 0x5000000003 = some (.setto 10) ∧
  decodeTableWord 168 0x3F000001F44 = some (.append 0x7E 1000) ∧
  decodeTableWord 168 0x263D = some (.poll 1223) ∧
  decodeTableWord 168 0x7870686058504840383028201810080000000002 =
    some (.keyload #v[0, 1, 2, 3, 4, 5, 6, 7, 8, 9, 10, 11, 12, 13, 14, 15]) ∧
  decodeTableWord 8 0x5 = some .chkCrc ∧ decodeTableWord 8 0xF = some .publish ∧ decodeTableWord 8 0x10 = none

/-! ### The step -/

namespace Sys2Proof.Ref

/-- A POLL at `now` flushes (R124, decisions D4, D28): the buffer is not empty and the silence `(now − last) mod 2^32` is above
the timeout. -/
abbrev flushes (s : State) (now : Time) : Prop :=
  0 < s.len.val ∧ s.idle_timeout.toNat < (now.toNat + 2 ^ 32 - s.last.toNat) % 2 ^ 32

end Sys2Proof.Ref

/-- R6, R27, R80: a step runs the instruction at its place: the oldest command word at the port, which it takes,
when no run is in progress; the micro-operation at the sequencer's position while one is (log entry 4). With nothing
waiting it only ends the presentation of the last record (log entry 2, the model's choice). -/
def Obligations.StepRunsNextInstruction : Prop :=
  (∀ s w rest, s.run = none → s.port = .command w :: rest →
    step s = exec (decodeCmd w) { s with port := rest }) ∧
  (∀ s r, s.run = some r → s.port.head? ≠ some .resetInput → step s = exec (decodeStage r.stage) s) ∧
  (∀ s, s.run = none → s.port = [] → step s = .next { s with res := ResultRecord.empty })

/-- The instruction that `decodeTableWord` reads from a raw word is the one that the step after
`withFetchWord` runs (log entries 1 and 3: how a word is placed is the model's choice). -/
def Obligations.PlacedWordIsRun : Prop :=
  ∀ (s : State) (nbits w : Nat) (i : Instr), decodeTableWord nbits w = some i →
    ∃ t, step (s.withFetchWord nbits w) = exec i t ∧
      t.FB = s.FB ∧ t.len = s.len ∧ t.last = s.last ∧ t.idle_timeout = s.idle_timeout ∧ t.KEY = s.KEY ∧
      t.key_valid = s.key_valid

/-- R270 and R273 (decisions D21, D28; that the input is a host event is log entry 12): the hardware reset input has the
effect of the RESET command; a run in progress is abandoned without a result record. -/
def Obligations.ResetInputActsAsReset : Prop :=
  ∀ s rest, s.port = .resetInput :: rest →
    step s = exec .reset { s with port := rest } ∧
    ∃ t, step s = .next t ∧ t.len = 0 ∧ t.last = 0 ∧ t.idle_timeout = 100 ∧ t.key_valid = false ∧ t.run = none ∧
      t.res = ResultRecord.empty

/-- R14, first part: from every state that meets the invariant a step goes on. No command, frame or host event makes the
block fault, refuse or hang. -/
def Obligations.StepAlwaysGoesOn : Prop := ∀ s, BlockInv s → goesOn (step s)

/-- Every step keeps the invariant of Sys2Proof/Safety.lean (that KEY is zero while `key_valid` is 0 is log entry 6). -/
def Obligations.StepKeepsInv : Prop := ∀ s t, BlockInv s → step s = .next t → BlockInv t

/-- The reset state meets the invariant. -/
def Obligations.ResetMeetsInv : Prop := BlockInv State.reset

/-- R14 and R100: the outcome of a host command is exactly one of the empty record, REJECT with a code from 1 to 8, and a
READING: one of the last two for a POLL that flushes, the first for every other command; the block then waits for the next
command, and the transient state does not outlive the step (R24). -/
def Obligations.CommandOutcomes : Prop :=
  ∀ s w rest, s.run = none → s.port = .command w :: rest →
    ∃ t, step s = .next t ∧ t.run = none ∧ t.port = rest ∧
      (((∀ now, decodeCmd w = .poll now → ¬ Ref.flushes s now) ∧ t.res = ResultRecord.empty) ∨
        (∃ now, decodeCmd w = .poll now ∧ Ref.flushes s now ∧ t.res.res_valid = true ∧
          ((1 ≤ t.res.res_code.toNat ∧ t.res.res_code.toNat ≤ 8 ∧ t.res = rejectRecord t.res.res_code t.res.res_warn) ∨
            (t.res.res_code = 0 ∧ t.res.rd_valid = true))))

/-! ### Reset and the host commands -/

/-- R32 and R270: the reset state, in everything to which the spec gives a value. -/
def Obligations.ResetStateValues : Prop :=
  State.reset.len = 0 ∧ State.reset.last = 0 ∧ State.reset.idle_timeout = 100 ∧ State.reset.key_valid = false ∧
  State.reset.run = none ∧ State.reset.res = ResultRecord.empty

/-- R120 (decision D21): RESET; a second RESET changes nothing more. The last clause, that RESET answers the same state from
every state with the same host events, is the model's choice where it speaks of the cells of KEY and FB (log entry 6: the
model puts the filler in them, which R271 allows and R120 does not ask for). -/
def Obligations.ResetCommandEffect : Prop :=
  (∀ w : CmdWord, w.toNat % 8 = 1 → decodeCmd w = .reset) ∧
  ∀ s, ∃ t, exec .reset s = .next t ∧
    t.len = 0 ∧ t.last = 0 ∧ t.idle_timeout = 100 ∧ t.key_valid = false ∧ t.res = ResultRecord.empty ∧
    t.run = none ∧ t.port = s.port ∧ exec .reset t = .next t ∧
    ∀ s', s'.port = s.port → exec .reset s' = .next t

/-- R121 (decision D8): the first KEYLOAD after a reset stores its sixteen bytes and sets `key_valid`; a later one changes
nothing. Every other field is as before. -/
def Obligations.KeyloadEffect : Prop :=
  (∀ w : CmdWord, w.toNat % 8 = 2 → ∃ k, decodeCmd w = .keyload k ∧
    ∀ i : Fin 16, (k[i.val]).toNat = w.toNat / 2 ^ (35 + 8 * i.val) % 256) ∧
  ∀ (k : Vector Byte 16) (s : State),
    (s.key_valid = false →
      exec (.keyload k) s = .next { s with KEY := k, key_valid := true, res := ResultRecord.empty }) ∧
    (s.key_valid = true → exec (.keyload k) s = .next { s with res := ResultRecord.empty })

/-- R122 (decision D22): SETTO takes any value and touches nothing else. -/
def Obligations.SettoEffect : Prop :=
  (∀ w : CmdWord, w.toNat % 8 = 3 → decodeCmd w = .setto (BitVec.ofNat 32 (w.toNat / 2 ^ 35))) ∧
  ∀ (u : Time) (s : State),
    exec (.setto u) s = .next { s with idle_timeout := u, res := ResultRecord.empty }

/-- R123 (decisions D5, D29): APPEND stores the byte at index `len` and counts it while the buffer is not full, drops it
when `len` is 258, and takes the time in both cases. Every other cell and field is as before. -/
def Obligations.AppendEffect : Prop :=
  (∀ w : CmdWord, w.toNat % 8 = 4 →
    decodeCmd w = .append (BitVec.ofNat 8 (w.toNat / 2 ^ 35)) (BitVec.ofNat 32 (w.toNat / 2 ^ 3))) ∧
  ∀ (b : Byte) (now : Time) (s : State),
    (s.len.val < 258 → ∃ t, exec (.append b now) s = .next t ∧
      (∀ a, appendIndex s = some a → a.val = s.len.val ∧ Memory.read t.FB a.val = b ∧
        ∀ a', a' ≠ a.val → Memory.read t.FB a' = Memory.read s.FB a') ∧
      (appendIndex s).isSome = true ∧
      t.len.val = s.len.val + 1 ∧ t.last = now ∧ t.res = ResultRecord.empty ∧
      t.idle_timeout = s.idle_timeout ∧ t.KEY = s.KEY ∧ t.key_valid = s.key_valid ∧ t.run = s.run ∧ t.port = s.port) ∧
    (s.len.val = 258 → exec (.append b now) s = .next { s with last := now, res := ResultRecord.empty })

/-- R84 (decision D3): a reserved operation code changes no state and emits the empty record (that the model takes this
reading and not the refusal is log entry 5). -/
def Obligations.ReservedCodesDoNothing : Prop :=
  ∀ s, exec .reserved0 s = .next { s with res := ResultRecord.empty } ∧
    exec .reserved6 s = .next { s with res := ResultRecord.empty } ∧
    exec .reserved7 s = .next { s with res := ResultRecord.empty }

/-- R124 (decisions D4, D28), the else branch: with an empty buffer, or a silence `(now − last) mod 2^32` that is not above the
timeout, POLL gives the empty record and changes nothing. -/
def Obligations.PollWithoutFrame : Prop :=
  ∀ (now : Time) (s : State),
    (s.len.val = 0 ∨ (now.toNat + 2 ^ 32 - s.last.toNat) % 2 ^ 32 ≤ s.idle_timeout.toNat) →
      exec (.poll now) s = .next { s with res := ResultRecord.empty }

/-- R122, a corner case: with the largest timeout no POLL ever flushes, whatever its time. -/
def Obligations.LargestTimeoutNeverFlushes : Prop :=
  ∀ (now : Time) (s : State), s.idle_timeout.toNat = 2 ^ 32 - 1 →
    exec (.poll now) s = .next { s with res := ResultRecord.empty }

/-- R100 and R243: the empty record has every field 0; the record of an error has `res_valid = 1`, its code and its warning,
`rd_valid = 0` and all reading fields 0. -/
def Obligations.RecordsWithoutReading : Prop :=
  (ResultRecord.empty.res_valid = false ∧ ResultRecord.empty.res_code = 0 ∧ ResultRecord.empty.res_warn = false ∧
    ResultRecord.empty.rd_valid = false) ∧
  ∀ (code : ResCode) (warn : Bool),
    (rejectRecord code warn).res_valid = true ∧ (rejectRecord code warn).res_code = code ∧
    (rejectRecord code warn).res_warn = warn ∧ (rejectRecord code warn).rd_valid = false ∧
    ∀ c, c = ResultRecord.empty ∨ c = rejectRecord code warn →
      ∀ i : Fin 4, c.e[i.val] = 0 ∧ c.p[i.val] = 0 ∧ c.s_len[i.val] = 0 ∧ ∀ j : Fin 10, (c.s_chr[i.val])[j.val] = 0

/-! ### The pipeline as one function of the frame and the key -/

namespace Sys2Proof.Ref

/-- The nonce of a frame as a block (R89): `B[16]` to `B[23]`, `B[26]` to `B[29]`, three zero bytes, 0x02. -/
def nonceBlock (B : List Byte) : AesBlock where
  c0 := wordOf (B.getD 16 0) (B.getD 17 0) (B.getD 18 0) (B.getD 19 0)
  c1 := wordOf (B.getD 20 0) (B.getD 21 0) (B.getD 22 0) (B.getD 23 0)
  c2 := wordOf (B.getD 26 0) (B.getD 27 0) (B.getD 28 0) (B.getD 29 0)
  c3 := 0x00000002#32

/-- The record of a flushed frame `B` (R125, R240, R242), check by check in the order of priority; `key` is none when no
key is loaded. -/
def frameRecord (B : List Byte) (key : Option AesBlock) : ResultRecord :=
  let n := B.length
  let warn : Bool := (B.drop 16).take 5 != [0x4B#8, 0x68#8, 0x75#8, 0x36#8, 0x86#8]
  if n < 33 then rejectRecord 1 false
  else if B[0]? ≠ some 0x7E#8 ∨ B[1]? ≠ some 0xA0#8 then rejectRecord 2 false
  else if B[2]?.map (fun b => b.toNat + 2) ≠ some n then rejectRecord 3 false
  else if B[n - 1]? ≠ some 0x7E#8 then rejectRecord 4 false
  else if B[n - 3]? ≠ some ((crc16 ((B.take (n - 4)).drop 1)).setWidth 8) ∨
      B[n - 2]? ≠ some ((crc16 ((B.take (n - 4)).drop 1) >>> 8).setWidth 8) then rejectRecord 5 false
  else
    match key with
    | none => rejectRecord 8 warn
    | some k =>
      let P := ctrCrypt k (nonceBlock B) ((B.take (n - 3)).drop 30)
      if markersOk P then
        match extractRegs P with
        | none => rejectRecord 7 warn
        | some x =>
          { res_valid := true, res_code := 0, res_warn := warn, rd_valid := true
            e := Vector.ofFn fun i : Fin 4 => scaleEnergy x[i.val]
            p := Vector.ofFn fun i : Fin 4 => passPower x[4 + i.val]
            s_len := Vector.ofFn fun i : Fin 4 => (decStr x[i.val]).len
            s_chr := Vector.ofFn fun i : Fin 4 => (decStr x[i.val]).chr }
      else rejectRecord 6 warn

/-- The key as the decryptor sees it: none while `key_valid = 0` (R172). -/
def loadedKey (s : State) : Option AesBlock := if s.key_valid then some (blockOf s.KEY) else none

/-- One instruction after another (R63). -/
def execAll : List Instr → State → Result
  | [], s => .next s
  | i :: is, s =>
    match exec i s with
    | .next t => execAll is t
    | r => r

end Sys2Proof.Ref

/-- R124 and R125 (decisions D4, D26, D28), the flush: when the buffer is not empty and the silence is above the timeout, POLL
empties the buffer, delivers the one record that the checks in their order give for the frame `B = FB[0, len)`, and
leaves `last`, `idle_timeout`, `KEY`, `key_valid` alone. That the cells of FB, which the spec gives no value after it (R20),
read as the filler is the model's choice (log entry 6). -/
def Obligations.PollDeliversFrameRecord : Prop :=
  ∀ (now : Time) (s : State), Ref.flushes s now →
    exec (.poll now) s = .next { s with
      FB := Memory.empty
      len := 0
      run := none
      res := Ref.frameRecord (Memory.readBytes s.FB 0 s.len.val) (Ref.loadedKey s) }

/-- R6 and R125 (decisions D26, D28): what the one step of a flushing POLL gives is what the sequencer's micro-operations give
one after another, at most sixteen of them, from the opened run until no run is in progress. That each of them is also a step
of the machine, on a state that holds the run, is the model's choice (log entry 4): in the spec POLL is the only step and
the run is no state between steps (R6, R24). -/
def Obligations.PollIsItsMicroSteps : Prop :=
  ∀ (now : Time) (s : State), Ref.flushes s now → s.port.head? ≠ some .resetInput →
    ∃ k, k ≤ 16 ∧ core.run k (openRun s (Memory.readBytes s.FB 0 s.len.val)) = exec (.poll now) s ∧
      ∀ j, j < k → ∃ t, core.run j (openRun s (Memory.readBytes s.FB 0 s.len.val)) = .next t ∧ t.run.isSome = true

/-- R241 (a fact the spec marks as derived): no step of the block reports code 7, nor a code above 8. -/
def Obligations.CodeSevenIsUnreachable : Prop :=
  ∀ s t, BlockInv s → step s = .next t → t.res.res_code ≠ 7 ∧ t.res.res_code.toNat ≤ 8

/-- E2 of 95_test_vectors.md, R146: two states that differ in the key only give the same record wherever the validator
rejects the frame (codes 1 to 5) or there is none. -/
def Obligations.ValidatorIgnoresTheKey : Prop :=
  ∀ (now : Time) (s : State) (kv : Bool) (key : Vector Byte 16) (t : State), exec (.poll now) s = .next t →
    t.res.res_valid = false ∨ (1 ≤ t.res.res_code.toNat ∧ t.res.res_code.toNat ≤ 5) →
      ∃ t', exec (.poll now) { s with KEY := key, key_valid := kv } = .next t' ∧ t'.res = t.res

/-- R23, R121, R178, R283: once a key is loaded, a step keeps it and `key_valid`, unless it is a RESET command or the reset
input. -/
def Obligations.KeyIsWriteOnce : Prop :=
  ∀ s t, step s = .next t → s.key_valid = true →
    (t.key_valid = true ∧ t.KEY = s.KEY) ∨ s.port.head? = some .resetInput ∨
    (s.run = none ∧ ∃ w rest, s.port = .command w :: rest ∧ decodeCmd w = .reset)

/-- R51: the byte that the `i`-th APPEND since the last flush carried is `FB[i]`, for `i < 258`; `len` counts the bytes and
stays at 258 (R123), and `last` is the time of the last of them. -/
def Obligations.AppendsFillTheBufferInOrder : Prop :=
  ∀ (bs : List (Byte × Time)) (s : State), s.len.val = 0 →
    ∃ t, Ref.execAll (bs.map fun p => .append p.1 p.2) s = .next t ∧
      t.len.val = min bs.length 258 ∧
      (∀ i (h : i < bs.length), i < 258 → Memory.read t.FB i = (bs[i]).1) ∧
      (∀ a, min bs.length 258 ≤ a → Memory.read t.FB a = Memory.read s.FB a) ∧
      t.last = (bs.getLast?.map Prod.snd).getD s.last

/-- R128 (a fact the spec marks as derived): dropping the bytes beyond 258 changes no result. From an empty buffer, the APPENDs of a
stream of any length and then a POLL whose silence after the last of them is above the timeout give the record of the whole
stream, as an unbounded buffer would, and leave the state that a flush leaves (its empty FB is log entry 6); beyond 258 bytes
the code is 2 or 3. -/
def Obligations.SaturationIsUnobservable : Prop :=
  ∀ (bs : List (Byte × Time)) (b : Byte) (u now : Time) (s : State), s.len.val = 0 →
    s.idle_timeout.toNat < (now.toNat + 2 ^ 32 - u.toNat) % 2 ^ 32 →
      ∃ c, c = Ref.frameRecord (bs.map Prod.fst ++ [b]) (Ref.loadedKey s) ∧
        Ref.execAll ((bs.map fun p => .append p.1 p.2) ++ [.append b u, .poll now]) s =
          .next { s with FB := Memory.empty, last := u, run := none, res := c } ∧
        (258 ≤ bs.length → c.res_code = 2 ∨ c.res_code = 3)

/-- R108 and R280 (decision D25; that a tick with bytes never flushes is a fact the spec marks as derived): a tick that brings
at least one byte ends with the empty record and a non-empty buffer, for every timeout. -/
def Obligations.TickWithBytesNeverFlushes : Prop :=
  ∀ (u : Time) (b : Byte) (bs : List Byte) (s : State), s.run = none →
    tick u (b :: bs) = ((b :: bs).map fun x => .append x u) ++ [.poll u] ∧
    ∃ t, core.run (bs.length + 2) (loadTrace s (tick u (b :: bs))) = .next t ∧
      t.res = ResultRecord.empty ∧ t.len.val = min (s.len.val + bs.length + 1) 258 ∧ t.last = u ∧ t.port = []

/-! ### The micro-operations -/

/-- R140 (decision D6): CHK_MIN. -/
def Obligations.ChkMinEffect : Prop :=
  decodeStage 1 = .chkMin ∧ ∀ s r, s.run = some r →
    (r.B.length < 33 → exec .chkMin s =
      .next { s with run := some { r with code := 1, stage := 0 }, res := rejectRecord 1 r.warn }) ∧
    (33 ≤ r.B.length → exec .chkMin s = .next { s with run := some { r with stage := 2 } })

/-- R141: CHK_OPEN. Both bytes must match. -/
def Obligations.ChkOpenEffect : Prop :=
  decodeStage 2 = .chkOpen ∧ ∀ s r b0 b1, s.run = some r → r.B[0]? = some b0 → r.B[1]? = some b1 →
    (b0 ≠ 0x7E ∨ b1 ≠ 0xA0 → exec .chkOpen s =
      .next { s with run := some { r with code := 2, stage := 0 }, res := rejectRecord 2 r.warn }) ∧
    (b0 = 0x7E ∧ b1 = 0xA0 → exec .chkOpen s = .next { s with run := some { r with stage := 3 } })

/-- R142: CHK_LEN, the sum an integer that is not reduced modulo 256. -/
def Obligations.ChkLenEffect : Prop :=
  decodeStage 3 = .chkLen ∧ ∀ s r b2, s.run = some r → r.B[2]? = some b2 →
    (r.B.length ≠ b2.toNat + 2 → exec .chkLen s =
      .next { s with run := some { r with code := 3, stage := 0 }, res := rejectRecord 3 r.warn }) ∧
    (r.B.length = b2.toNat + 2 → exec .chkLen s = .next { s with run := some { r with stage := 4 } })

/-- R143: CHK_CLOSE. -/
def Obligations.ChkCloseEffect : Prop :=
  decodeStage 4 = .chkClose ∧ ∀ s r b, s.run = some r → r.B[r.B.length - 1]? = some b →
    (b ≠ 0x7E → exec .chkClose s =
      .next { s with run := some { r with code := 4, stage := 0 }, res := rejectRecord 4 r.warn }) ∧
    (b = 0x7E → exec .chkClose s = .next { s with run := some { r with stage := 5 } })

/-- R163: CHK_CRC compares the CRC of `B[1], .., B[n−5]` with `B[n−3] + 256·B[n−2]`. -/
def Obligations.ChkCrcEffect : Prop :=
  decodeStage 5 = .chkCrc ∧ ∀ s r lo hi, s.run = some r → 5 ≤ r.B.length →
    r.B[r.B.length - 3]? = some lo → r.B[r.B.length - 2]? = some hi →
    ((crc16 ((r.B.drop 1).take (r.B.length - 5))).toNat ≠ lo.toNat + 256 * hi.toNat → exec .chkCrc s =
      .next { s with run := some { r with code := 5, stage := 0 }, res := rejectRecord 5 r.warn }) ∧
    ((crc16 ((r.B.drop 1).take (r.B.length - 5))).toNat = lo.toNat + 256 * hi.toNat → exec .chkCrc s =
      .next { s with run := some { r with stage := 6 } })

/-- R145 (decision D11): CHK_MODEL sets `warn` exactly when one of the five bytes differs, and never raises. -/
def Obligations.ChkModelEffect : Prop :=
  decodeStage 6 = .chkModel ∧ ∀ s r, s.run = some r → 21 ≤ r.B.length →
    ∃ w, exec .chkModel s = .next { s with run := some { r with warn := w, stage := 7 } } ∧
      (w = false ↔ r.B[16]? = some 0x4B ∧ r.B[17]? = some 0x68 ∧ r.B[18]? = some 0x75 ∧ r.B[19]? = some 0x36 ∧
        r.B[20]? = some 0x86)

/-- R172 (decision D9): CHK_KEY. -/
def Obligations.ChkKeyEffect : Prop :=
  decodeStage 7 = .chkKey ∧ ∀ s r, s.run = some r →
    (s.key_valid = false → exec .chkKey s =
      .next { s with run := some { r with code := 8, stage := 0 }, res := rejectRecord 8 r.warn }) ∧
    (s.key_valid = true → exec .chkKey s = .next { s with run := some { r with stage := 8 } })

/-- R171: NONCE. -/
def Obligations.NonceEffect : Prop :=
  decodeStage 8 = .nonce ∧ ∀ s r, s.run = some r → 30 ≤ r.B.length →
    ∃ nb, exec .nonce s = .next { s with run := some { r with NB := nb, stage := 9 } } ∧
      (∀ i : Fin 8, r.B[16 + i.val]? = some nb[i.val]) ∧ (∀ i : Fin 4, r.B[26 + i.val]? = some nb[8 + i.val]) ∧
      nb[12] = 0 ∧ nb[13] = 0 ∧ nb[14] = 0 ∧ nb[15] = 2

/-- R170, R173 and R174 (R173: decision D14, its counter increment from general knowledge): CTR. The payload has the length of the
ciphertext `B[30, n−3)`, none when it is empty, and byte `u` of it is `C[u]` XOR byte `u mod 16` of the cipher block, under the
key in KEY, of the nonce block with its last byte replaced by `2 + u div 16`. -/
def Obligations.CtrEffect : Prop :=
  decodeStage 9 = .ctr ∧ ∀ s r, s.run = some r → 33 ≤ r.B.length →
    ∃ P, exec .ctr s = .next { s with run := some { r with PB := P, stage := 10 } } ∧
      P.length = r.B.length - 33 ∧
      ∀ u, u < P.length → ∃ c ks, r.B[30 + u]? = some c ∧ P[u]? = some (c ^^^ ks) ∧
        (blockBytes (aes128 (blockOf s.KEY) (blockOf (r.NB.set 15 (BitVec.ofNat 8 (2 + u / 16))))))[u % 16]? = some ks

/-- R175 (decision D12): INTEG. A marker whose index does not exist counts as a mismatch. -/
def Obligations.IntegEffect : Prop :=
  decodeStage 10 = .integ ∧ ∀ s r, s.run = some r →
    let ok := r.PB[0]? = some 0x0F ∧
      ∀ k, 1 ≤ k → k ≤ 8 → 5 * k ≤ r.PB.length ∧ r.PB[r.PB.length - 5 * k]? = some 0x06
    (¬ ok → exec .integ s =
      .next { s with run := some { r with code := 6, stage := 0 }, res := rejectRecord 6 r.warn }) ∧
    (ok → exec .integ s = .next { s with run := some { r with stage := 11 } })

/-- R54, R210 and R211 (R211: decision D13): EXTRACT reads register `i` big-endian at `L − 39 + 5i`, all eight or none. -/
def Obligations.ExtractEffect : Prop :=
  decodeStage 11 = .extract ∧ ∀ s r, s.run = some r →
    (r.PB.length < 39 → exec .extract s =
      .next { s with run := some { r with code := 7, stage := 0 }, res := rejectRecord 7 r.warn }) ∧
    (39 ≤ r.PB.length → ∃ x, exec .extract s = .next { s with run := some { r with x := x, stage := 12 } } ∧
      ∀ i : Fin 8, ∃ b0 b1 b2 b3,
        r.PB[r.PB.length - 39 + 5 * i.val]? = some b0 ∧ r.PB[r.PB.length - 39 + 5 * i.val + 1]? = some b1 ∧
        r.PB[r.PB.length - 39 + 5 * i.val + 2]? = some b2 ∧ r.PB[r.PB.length - 39 + 5 * i.val + 3]? = some b3 ∧
        (x[i.val]).toNat = 16777216 * b0.toNat + 65536 * b1.toNat + 256 * b2.toNat + b3.toNat)

/-- R220 (decision D16): MAP_E. -/
def Obligations.MapEEffect : Prop :=
  decodeStage 12 = .mapE ∧ ∀ s r, s.run = some r → ∃ e, exec .mapE s = .next { s with run := some { r with e := e, stage := 13 } } ∧
    ∀ i : Fin 4, e[i.val] = rn32 ((r.x[i.val]).toNat % 1000000) 1000

/-- R222 (decision D17): MAP_P. -/
def Obligations.MapPEffect : Prop :=
  decodeStage 13 = .mapP ∧ ∀ s r, s.run = some r → ∃ p, exec .mapP s = .next { s with run := some { r with p := p, stage := 14 } } ∧
    ∀ j : Fin 4, p[j.val] = rn32 (r.x[4 + j.val]).toNat 1

namespace Sys2Proof.Ref

/-- The number a sequence of ASCII digits spells. -/
def spelled (cs : List Byte) : Nat := cs.foldl (fun v c => 10 * v + (c.toNat - 0x30)) 0

end Sys2Proof.Ref

/-- R223 (decision D18): MAP_S. String `i` spells the unreduced register in 1 to 10 ASCII digits, has no leading zero, and the
unused cells are 0. -/
def Obligations.MapSEffect : Prop :=
  decodeStage 14 = .mapS ∧ ∀ s r, s.run = some r → ∃ q, exec .mapS s = .next { s with run := some { r with s := q, stage := 15 } } ∧
    ∀ i : Fin 4, ∃ n, n = (q[i.val]).len.toNat ∧ 1 ≤ n ∧ n ≤ 10 ∧
      (∀ u : Fin 10, u.val < n → 0x30 ≤ ((q[i.val]).chr[u.val]).toNat ∧ ((q[i.val]).chr[u.val]).toNat ≤ 0x39) ∧
      (∀ u : Fin 10, n ≤ u.val → (q[i.val]).chr[u.val] = 0) ∧
      (2 ≤ n → (q[i.val]).chr[0] ≠ 0x30) ∧
      Ref.spelled ((q[i.val]).chr.toList.take n) = (r.x[i.val]).toNat

/-- R227 (decision D19): PUBLISH delivers the twelve channels together; then DONE. -/
def Obligations.PublishEffect : Prop :=
  decodeStage 15 = .publish ∧ ∀ s r, s.run = some r → ∃ c, exec .publish s =
      .next { s with run := some { r with code := 0, stage := 0 }, res := c } ∧
    c.res_valid = true ∧ c.res_code = 0 ∧ c.res_warn = r.warn ∧ c.rd_valid = true ∧ c.e = r.e ∧ c.p = r.p ∧
    ∀ i : Fin 4, c.s_len[i.val] = (r.s[i.val]).len ∧ c.s_chr[i.val] = (r.s[i.val]).chr

/-- R24, R105, R125: DONE ends the run; its transient state no longer exists and nothing else changes. That DONE with no run in
progress is an instruction that runs and changes nothing is the model's choice (log entry 8). -/
def Obligations.DoneEffect : Prop := decodeStage 0 = .done ∧ ∀ s, exec .done s = .next { s with run := none }

/-- R57 and U1: a read outside the current length of the snapshot is a fault by name and gives no value (that it is this fault
is log entry 9). -/
def Obligations.ReadsOutsideBoundsFault : Prop :=
  ∀ s r, s.run = some r → (r.B.length < 2 → exec .chkOpen s = .fault .outOfBounds) ∧
    (r.B.length < 3 → exec .chkLen s = .fault .outOfBounds) ∧
    (r.B.length < 1 → exec .chkClose s = .fault .outOfBounds) ∧
    (r.B.length < 5 → exec .chkCrc s = .fault .outOfBounds) ∧
    (r.B.length < 21 → exec .chkModel s = .fault .outOfBounds) ∧
    (r.B.length < 30 → exec .nonce s = .fault .outOfBounds) ∧
    (r.B.length < 33 → exec .ctr s = .fault .outOfBounds)

/-- Log entry 8 (the model's choice): a micro-operation other than DONE with no run in progress is refused by name. -/
def Obligations.MicroOpNeedsRun : Prop :=
  ∀ (i : Instr) (s : State), i.isStage = true → i ≠ .done → s.run = none → exec i s = .refused .noRun

/-- R24, R59, R243: a micro-operation that goes on leaves all persistent state and the host events as they are, and of the
run's data it changes only what it is there to write. -/
def Obligations.MicroOpFrame : Prop :=
  ∀ (i : Instr) (s t : State), i.isStage = true → exec i s = .next t →
    t.FB = s.FB ∧ t.len = s.len ∧ t.last = s.last ∧ t.idle_timeout = s.idle_timeout ∧ t.KEY = s.KEY ∧
    t.key_valid = s.key_valid ∧ t.port = s.port ∧
    (∀ r r', s.run = some r → t.run = some r' →
      r'.B = r.B ∧ (i ≠ .chkModel → r'.warn = r.warn) ∧ (i ≠ .nonce → r'.NB = r.NB) ∧ (i ≠ .ctr → r'.PB = r.PB) ∧
      (i ≠ .extract → r'.x = r.x) ∧ (i ≠ .mapE → r'.e = r.e) ∧ (i ≠ .mapP → r'.p = r.p) ∧ (i ≠ .mapS → r'.s = r.s)) ∧
    (i ≠ .publish → t.res = s.res ∨ ∃ c r, s.run = some r ∧ t.res = rejectRecord c r.warn)

/-! ### CRC-16/X-25 -/

namespace Sys2Proof.Ref

/-- The bits of a value in reverse order: `rev8` and `rev16` of R161. -/
def rev {n : Nat} (v : BitVec n) : BitVec n := BitVec.ofFnLE fun i : Fin n => v.getMsbD i.val

/-- Eight shift steps of R161, most significant bit first. -/
def msbSteps : Nat → BitVec 16 → BitVec 16
  | 0, c => c
  | n + 1, c => msbSteps n (if c &&& 0x8000#16 ≠ 0 then (c <<< 1) ^^^ 0x1021#16 else c <<< 1)

/-- `crc16_x25(D)` straight from the parameters (R161). -/
def crcFromParameters (D : List Byte) : BitVec 16 :=
  rev (D.foldl (fun c b => msbSteps 8 (c ^^^ ((rev b).setWidth 16 <<< 8))) 0xFFFF#16) ^^^ 0xFFFF#16

end Sys2Proof.Ref

/-- R161 and R162 (the algorithm's shape from general knowledge, that the forms agree a fact the spec marks as derived):
the machine's CRC is the reference definition. -/
def Obligations.CrcFormsAgree : Prop := ∀ D : List Byte, crc16 D = Ref.crcFromParameters D

/-- R164 (a fact the spec marks as derived): CHK_CRC does not see the last ciphertext byte `B[n−4]`. -/
def Obligations.LastCipherByteIsUncovered : Prop :=
  ∀ s r b, s.run = some r → 33 ≤ r.B.length →
    (exec .chkCrc s = .next { s with run := some { r with stage := 6 } } ↔
      exec .chkCrc { s with run := some { r with B := r.B.set (r.B.length - 4) b } } =
        .next { s with run := some { r with B := r.B.set (r.B.length - 4) b, stage := 6 } })

/-! ### AES-128 and CTR -/

namespace Sys2Proof.Ref

/-- Multiplication in GF(2^8) (R192): the sum of `a·x^i` over the bits `i` of `b`. -/
def gfMul : Nat → Byte → Byte → Byte
  | 0, _, _ => 0
  | n + 1, a, b => (if b.getLsbD 0 then a else 0) ^^^ gfMul n (xtime a) (b >>> 1)

/-- The affine map of R193. -/
def affine (b : Byte) : Byte :=
  b ^^^ b.rotateLeft 1 ^^^ b.rotateLeft 2 ^^^ b.rotateLeft 3 ^^^ b.rotateLeft 4 ^^^ 0x63#8

end Sys2Proof.Ref

/-- R193 (from general knowledge): the table is the affine image of the multiplicative inverse, and a permutation. -/
def Obligations.SboxIsAffineInverse : Prop :=
  (∀ a : Byte, ∃ b : Byte, (a = 0 → b = 0) ∧ (a ≠ 0 → Ref.gfMul 8 a b = 1) ∧ sbox a = Ref.affine b) ∧
  (∀ a a' : Byte, sbox a = sbox a' → a = a')

/-- R198 (from general knowledge): the key schedule starts with the key and meets its recurrence at every word. -/
def Obligations.KeyScheduleRecurrence : Prop :=
  ∀ k : AesBlock, ∃ w : List Word, w = keyWords k ∧ w.length = 44 ∧
    w[0]? = some k.c0 ∧ w[1]? = some k.c1 ∧ w[2]? = some k.c2 ∧ w[3]? = some k.c3 ∧
    ∀ i, 4 ≤ i → i ≤ 43 → ∃ p q rc, w[i - 1]? = some p ∧ w[i - 4]? = some q ∧ roundConstants[i / 4 - 1]? = some rc ∧
      w[i]? = some (q ^^^ (if i % 4 = 0 then subWord (rotWord p) ^^^ wordOf rc 0 0 0 else p))

/-- R199: the two published examples (from general knowledge). -/
def Obligations.AesKnownAnswers : Prop :=
  aes128 ⟨0x00010203, 0x04050607, 0x08090a0b, 0x0c0d0e0f⟩ ⟨0x00112233, 0x44556677, 0x8899aabb, 0xccddeeff⟩ =
    ⟨0x69c4e0d8, 0x6a7b0430, 0xd8cdb780, 0x70b4c55a⟩ ∧
  aes128 ⟨0x2b7e1516, 0x28aed2a6, 0xabf71588, 0x09cf4f3c⟩ ⟨0x3243f6a8, 0x885a308d, 0x313198a2, 0xe0370734⟩ =
    ⟨0x3925841d, 0x02dc09fb, 0xdc118597, 0x196a0b32⟩

/-- R174 (d) and (f), E3: applying CTR twice gives the bytes back, for every length; and a change of one ciphertext byte changes
that byte of the payload by the same bits and no other. -/
def Obligations.CtrRoundTrip : Prop :=
  ∀ (k nb : AesBlock) (C : List Byte),
    (ctrCrypt k nb C).length = C.length ∧ ctrCrypt k nb (ctrCrypt k nb C) = C ∧
    ∀ (i : Nat) (d : Byte), ctrCrypt k nb (C.modify i (· ^^^ d)) = (ctrCrypt k nb C).modify i (· ^^^ d)

namespace Sys2Proof.Ref

/-- A byte sequence as a big-endian integer. -/
def bigEndian (bs : List Byte) : Nat := bs.foldl (fun v b => 256 * v + b.toNat) 0

end Sys2Proof.Ref

/-- R173 (a fact the spec marks as derived; decision D14): in reach, counter block `i` is the nonce plus `i` as a 128-bit big-endian integer. -/
def Obligations.CounterIsBigEndian : Prop :=
  ∀ (nb : AesBlock) (i : Nat), wordByte nb.c3 3 = 2 → i ≤ 13 →
    Ref.bigEndian (blockBytes (counterBlock nb i)) = Ref.bigEndian (blockBytes nb) + i

/-- R175 corner cases a to c and R176 (facts the spec marks as derived): a payload of fewer than 41 bytes never passes INTEG;
after INTEG has passed, which moves the sequencer on to EXTRACT (11), EXTRACT does not raise. -/
def Obligations.IntegNeedsFortyOneBytes : Prop :=
  (∀ s r, s.run = some r → r.PB.length < 41 → exec .integ s =
    .next { s with run := some { r with code := 6, stage := 0 }, res := rejectRecord 6 r.warn }) ∧
  (∀ s t r, exec .integ s = .next t → t.run = some r → r.stage = 11 →
    ∃ x, exec .extract t = .next { t with run := some { r with x := x, stage := 12 } })

/-! ### Byte order and numbers -/

/-- R53: the little-endian 16-bit read. -/
def Obligations.LittleEndianRead : Prop :=
  ∀ (S : List Byte) (a : Nat) (lo hi : Byte), S[a]? = some lo → S[a + 1]? = some hi →
    ∃ v, le16 S a = some v ∧ v.toNat = lo.toNat + 256 * hi.toNat

/-- R225 (decision D16, the definition from general knowledge): in the range that occurs, RN32 gives a normal number with significand `M` in
`[2^23, 2^24)` and exponent `e`; no number of 24 significant bits lies nearer, and where one lies equally near `M` is even. -/
def Obligations.RoundsToNearestEven : Prop :=
  ∀ num den : Nat, 0 < num → 0 < den → den ≤ 1024 * num → num < 2 ^ 33 * den →
    ∃ (e : Int) (M : Nat), 2 ^ 23 ≤ M ∧ M < 2 ^ 24 ∧ -10 ≤ e ∧ e ≤ 33 ∧
      (rn32 num den).toNat = (e + 127).toNat * 2 ^ 23 + (M - 2 ^ 23) ∧
      ∀ (M' : Nat) (e' : Int), M' < 2 ^ 24 →
        |(num : ℚ) / den - M * (2 : ℚ) ^ (e - 23)| ≤ |(num : ℚ) / den - M' * (2 : ℚ) ^ (e' - 23)| ∧
        (|(num : ℚ) / den - M * (2 : ℚ) ^ (e - 23)| = |(num : ℚ) / den - M' * (2 : ℚ) ^ (e' - 23)| →
          M' * (2 : ℚ) ^ (e' - 23) ≠ M * (2 : ℚ) ^ (e - 23) → M % 2 = 0)

/-- R220 (e) and R221 (facts the spec marks as derived): an energy is +0 exactly when the register is a multiple of 1 000 000, else it lies between
`0x3A83126F` (0.001) and `0x4479FFF0` (below 1000); a power is +0 exactly when the register is 0, else it lies between
`0x3F800000` (1.0) and `0x4F800000` (2^32). All are +0 or positive normal numbers. -/
def Obligations.ChannelRanges : Prop :=
  ∀ x : Word,
    ((x.toNat % 1000000 = 0 ∧ scaleEnergy x = 0) ∨
      (x.toNat % 1000000 ≠ 0 ∧ 0x3A83126F ≤ (scaleEnergy x).toNat ∧ (scaleEnergy x).toNat ≤ 0x4479FFF0)) ∧
    ((x = 0 ∧ passPower x = 0) ∨
      (x ≠ 0 ∧ 0x3F800000 ≤ (passPower x).toNat ∧ (passPower x).toNat ≤ 0x4F800000))

/-- R101 (decision D19): a reading is published as twelve channels in ascending number, with the spec's names; a record without
a reading publishes nothing. -/
def Obligations.ChannelsInAscendingOrder : Prop :=
  channelNames = ["active_energy_pos", "active_energy_neg", "reactive_energy_pos", "reactive_energy_neg",
    "active_power_pos", "active_power_neg", "reactive_power_pos", "reactive_power_neg", "active_energy_pos_raw",
    "active_energy_neg_raw", "reactive_energy_pos_raw", "reactive_energy_neg_raw"] ∧
  ∀ c : ResultRecord,
    (c.rd_valid = true → (publishedChannels c).map Prod.fst = List.range 12 ∧
      ∀ i : Fin 4, (publishedChannels c)[i.val]? = some (i.val, .number c.e[i.val]) ∧
        (publishedChannels c)[4 + i.val]? = some (4 + i.val, .number c.p[i.val]) ∧
        (publishedChannels c)[8 + i.val]? = some (8 + i.val, .decimal ⟨c.s_len[i.val], c.s_chr[i.val]⟩)) ∧
    (c.rd_valid = false → publishedChannels c = [])

/-! ### The cells to which the spec gives no value -/

/-- Log entry 6 (the model's choice; R271 lets a model put 'any filler, for instance zero' in these cells): at reset, after RESET
and after the reset input every cell of FB and KEY reads as 0, and after a flush every cell of FB does. -/
def Obligations.CellsWithoutValueReadZero : Prop :=
  ((∀ a, Memory.read State.reset.FB a = 0) ∧ ∀ i : Fin 16, State.reset.KEY[i.val] = 0) ∧
  ∀ s, (∃ t, exec .reset s = .next t ∧ (∀ a, Memory.read t.FB a = 0) ∧ ∀ i : Fin 16, t.KEY[i.val] = 0) ∧
    (s.port.head? = some .resetInput → ∃ t, step s = .next t ∧ (∀ a, Memory.read t.FB a = 0) ∧ ∀ i : Fin 16, t.KEY[i.val] = 0) ∧
    (∀ now, Ref.flushes s now → ∃ t, exec (.poll now) s = .next t ∧ ∀ a, Memory.read t.FB a = 0)
end

