-- ==== Sys2Proof/Laws/State.lean ====
section
/-! SUPPORT. One lemma per field for each update of the state, the run and the record that the meanings use,
true by rfl, so that no later proof unfolds a record update. -/

namespace Sys2Proof.Machine

/-! ### `emitEmpty` -/

@[simp] theorem emitEmpty_FB (s : State) : (emitEmpty s).FB = s.FB := rfl
@[simp] theorem emitEmpty_len (s : State) : (emitEmpty s).len = s.len := rfl
@[simp] theorem emitEmpty_last (s : State) : (emitEmpty s).last = s.last := rfl
@[simp] theorem emitEmpty_idle_timeout (s : State) : (emitEmpty s).idle_timeout = s.idle_timeout := rfl
@[simp] theorem emitEmpty_KEY (s : State) : (emitEmpty s).KEY = s.KEY := rfl
@[simp] theorem emitEmpty_key_valid (s : State) : (emitEmpty s).key_valid = s.key_valid := rfl
@[simp] theorem emitEmpty_run (s : State) : (emitEmpty s).run = s.run := rfl
@[simp] theorem emitEmpty_res (s : State) : (emitEmpty s).res = ResultRecord.empty := rfl
@[simp] theorem emitEmpty_port (s : State) : (emitEmpty s).port = s.port := rfl

/-! ### `applyReset` -/

@[simp] theorem applyReset_FB (s : State) : (applyReset s).FB = Memory.empty := rfl
@[simp] theorem applyReset_len (s : State) : (applyReset s).len = 0 := rfl
@[simp] theorem applyReset_last (s : State) : (applyReset s).last = 0 := rfl
@[simp] theorem applyReset_idle_timeout (s : State) : (applyReset s).idle_timeout = Config.idleTimeoutDefault := rfl
@[simp] theorem applyReset_KEY (s : State) : (applyReset s).KEY = noKey := rfl
@[simp] theorem applyReset_key_valid (s : State) : (applyReset s).key_valid = false := rfl
@[simp] theorem applyReset_run (s : State) : (applyReset s).run = none := rfl
@[simp] theorem applyReset_res (s : State) : (applyReset s).res = ResultRecord.empty := rfl
@[simp] theorem applyReset_port (s : State) : (applyReset s).port = s.port := rfl

/-! ### `openRun` -/

@[simp] theorem openRun_FB (s : State) (B : List Byte) : (openRun s B).FB = Memory.empty := rfl
@[simp] theorem openRun_len (s : State) (B : List Byte) : (openRun s B).len = 0 := rfl
@[simp] theorem openRun_last (s : State) (B : List Byte) : (openRun s B).last = s.last := rfl
@[simp] theorem openRun_idle_timeout (s : State) (B : List Byte) : (openRun s B).idle_timeout = s.idle_timeout := rfl
@[simp] theorem openRun_KEY (s : State) (B : List Byte) : (openRun s B).KEY = s.KEY := rfl
@[simp] theorem openRun_key_valid (s : State) (B : List Byte) : (openRun s B).key_valid = s.key_valid := rfl
@[simp] theorem openRun_run (s : State) (B : List Byte) : (openRun s B).run = some (startRun B) := rfl
@[simp] theorem openRun_res (s : State) (B : List Byte) : (openRun s B).res = s.res := rfl
@[simp] theorem openRun_port (s : State) (B : List Byte) : (openRun s B).port = s.port := rfl

/-! ### `startRun` -/

@[simp] theorem startRun_stage (B : List Byte) : (startRun B).stage = stChkMin := rfl
@[simp] theorem startRun_B (B : List Byte) : (startRun B).B = B := rfl
@[simp] theorem startRun_warn (B : List Byte) : (startRun B).warn = false := rfl
@[simp] theorem startRun_code (B : List Byte) : (startRun B).code = 0 := rfl
@[simp] theorem startRun_NB (B : List Byte) : (startRun B).NB = Vector.ofFn fun _ => Memory.filler := rfl
@[simp] theorem startRun_PB (B : List Byte) : (startRun B).PB = [] := rfl
@[simp] theorem startRun_x (B : List Byte) : (startRun B).x = Vector.ofFn fun _ => 0 := rfl
@[simp] theorem startRun_e (B : List Byte) : (startRun B).e = Vector.ofFn fun _ => 0 := rfl
@[simp] theorem startRun_p (B : List Byte) : (startRun B).p = Vector.ofFn fun _ => 0 := rfl
@[simp] theorem startRun_s (B : List Byte) : (startRun B).s = Vector.ofFn fun _ => DecStr.zero := rfl
@[simp] theorem startRun_n (B : List Byte) : (startRun B).n = B.length := rfl

/-! ### `State.reset` -/

@[simp] theorem State.reset_FB  : State.reset.FB = Memory.empty := rfl
@[simp] theorem State.reset_len  : State.reset.len = 0 := rfl
@[simp] theorem State.reset_last  : State.reset.last = 0 := rfl
@[simp] theorem State.reset_idle_timeout  : State.reset.idle_timeout = Config.idleTimeoutDefault := rfl
@[simp] theorem State.reset_KEY  : State.reset.KEY = noKey := rfl
@[simp] theorem State.reset_key_valid  : State.reset.key_valid = false := rfl
@[simp] theorem State.reset_run  : State.reset.run = none := rfl
@[simp] theorem State.reset_res  : State.reset.res = ResultRecord.empty := rfl
@[simp] theorem State.reset_port  : State.reset.port = [] := rfl

/-! ### The records -/

@[simp] theorem ResultRecord.empty_res_valid  : ResultRecord.empty.res_valid = false := rfl
@[simp] theorem ResultRecord.empty_res_code  : ResultRecord.empty.res_code = 0 := rfl
@[simp] theorem ResultRecord.empty_res_warn  : ResultRecord.empty.res_warn = false := rfl
@[simp] theorem ResultRecord.empty_rd_valid  : ResultRecord.empty.rd_valid = false := rfl
@[simp] theorem ResultRecord.empty_e  : ResultRecord.empty.e = Vector.ofFn fun _ => 0 := rfl
@[simp] theorem ResultRecord.empty_p  : ResultRecord.empty.p = Vector.ofFn fun _ => 0 := rfl
@[simp] theorem ResultRecord.empty_s_len  : ResultRecord.empty.s_len = Vector.ofFn fun _ => 0 := rfl
@[simp] theorem ResultRecord.empty_s_chr  : ResultRecord.empty.s_chr = Vector.ofFn fun _ => Vector.ofFn fun _ => 0 := rfl
@[simp] theorem rejectRecord_res_valid (c : ResCode) (w : Bool) : (rejectRecord c w).res_valid = true := rfl
@[simp] theorem rejectRecord_res_code (c : ResCode) (w : Bool) : (rejectRecord c w).res_code = c := rfl
@[simp] theorem rejectRecord_res_warn (c : ResCode) (w : Bool) : (rejectRecord c w).res_warn = w := rfl
@[simp] theorem rejectRecord_rd_valid (c : ResCode) (w : Bool) : (rejectRecord c w).rd_valid = false := rfl
@[simp] theorem rejectRecord_e (c : ResCode) (w : Bool) : (rejectRecord c w).e = Vector.ofFn fun _ => 0 := rfl
@[simp] theorem rejectRecord_p (c : ResCode) (w : Bool) : (rejectRecord c w).p = Vector.ofFn fun _ => 0 := rfl
@[simp] theorem rejectRecord_s_len (c : ResCode) (w : Bool) : (rejectRecord c w).s_len = Vector.ofFn fun _ => 0 := rfl
@[simp] theorem rejectRecord_s_chr (c : ResCode) (w : Bool) : (rejectRecord c w).s_chr = Vector.ofFn fun _ => Vector.ofFn fun _ => 0 := rfl
@[simp] theorem readingRecord_res_valid (r : Run) : (readingRecord r).res_valid = true := rfl
@[simp] theorem readingRecord_res_code (r : Run) : (readingRecord r).res_code = 0 := rfl
@[simp] theorem readingRecord_res_warn (r : Run) : (readingRecord r).res_warn = r.warn := rfl
@[simp] theorem readingRecord_rd_valid (r : Run) : (readingRecord r).rd_valid = true := rfl
@[simp] theorem readingRecord_e (r : Run) : (readingRecord r).e = r.e := rfl
@[simp] theorem readingRecord_p (r : Run) : (readingRecord r).p = r.p := rfl
@[simp] theorem readingRecord_s_len (r : Run) : (readingRecord r).s_len = Vector.ofFn fun i : Fin 4 => (r.s[i.val]).len := rfl
@[simp] theorem readingRecord_s_chr (r : Run) : (readingRecord r).s_chr = Vector.ofFn fun i : Fin 4 => (r.s[i.val]).chr := rfl

end Sys2Proof.Machine
end

