-- ==== Sys2Proof/Laws/Ops.lean ====
section
/-! SUPPORT. One lemma for each shared operation, saying once everything it can do; the provers cite these
and do not unfold the operation. -/

namespace Sys2Proof.Machine

/-! ### Operations on a run in progress -/

@[simp] theorem withRun_some (s : State) (r : Run) (f : Run → Result) (h : s.run = some r) : withRun s f = f r := by
  simp [withRun, h]

@[simp] theorem withRun_none (s : State) (f : Run → Result) (h : s.run = none) :
    withRun s f = .refused .noRun := by
  simp [withRun, h]

/-- A micro-operation that goes on has a run in progress. -/
theorem withRun_next {s t : State} {f : Run → Result} (h : withRun s f = .next t) :
    ∃ r, s.run = some r ∧ f r = .next t := by
  unfold withRun at h
  split at h
  · exact ⟨_, ‹_›, h⟩
  · cases h

@[simp] theorem readSeq_some {α : Type} (a : α) (f : α → Result) : readSeq (some a) f = f a := rfl

@[simp] theorem readSeq_none {α : Type} (f : α → Result) : readSeq none f = .fault .outOfBounds := rfl

/-- A read of a byte sequence that goes on was inside the bounds. -/
theorem readSeq_next {α : Type} {t : State} {v : Option α} {f : α → Result} (h : readSeq v f = .next t) :
    ∃ a, v = some a ∧ f a = .next t := by
  cases v with
  | none => cases h
  | some a => exact ⟨a, rfl, h⟩

/-- What moving the sequencer on does. -/
theorem advance_next {s t : State} {r : Run} {c : StageCode} (h : advance s r c = .next t) :
    t = { s with run := some { r with stage := c } } := by
  simp only [advance, Host.Outcome.next.injEq] at h
  exact h.symm

/-- What raising an error does: the code, the rejecting record, the sequencer at DONE, nothing else. -/
theorem raise_next {s t : State} {r : Run} {x : Exc} (h : raise s r x = .next t) :
    t = { s with
      run := some { r with code := excCode x, stage := stDone }
      res := rejectRecord (excCode x) r.warn } := by
  simp only [raise, Host.Outcome.next.injEq] at h
  exact h.symm

@[simp] theorem raiseIf_true (x : Exc) (s : State) (r : Run) (c : StageCode) : raiseIf true x s r c = raise s r x := rfl

@[simp] theorem raiseIf_false (x : Exc) (s : State) (r : Run) (c : StageCode) :
    raiseIf false x s r c = advance s r c := rfl

/-- The two outcomes of a check. -/
theorem raiseIf_next {b : Bool} {x : Exc} {s t : State} {r : Run} {c : StageCode} (h : raiseIf b x s r c = .next t) :
    (b = true ∧ raise s r x = .next t) ∨ (b = false ∧ advance s r c = .next t) := by
  cases b with
  | true => exact .inl ⟨rfl, h⟩
  | false => exact .inr ⟨rfl, h⟩

/-! ### Byte sequences -/

/-- A part of a sequence, when it exists: its length and its bytes. -/
theorem slice_eq_some {S T : List Byte} {a b : Nat} (h : slice S a b = some T) :
    a ≤ b ∧ b ≤ S.length ∧ T = (S.take b).drop a := by
  unfold slice at h
  split at h
  · rename_i hb
    exact ⟨hb.1, hb.2, (Option.some.inj h).symm⟩
  · cases h

theorem slice_of_le {S : List Byte} {a b : Nat} (hab : a ≤ b) (hb : b ≤ S.length) :
    slice S a b = some ((S.take b).drop a) := by
  simp [slice, hab, hb]

theorem slice_none {S : List Byte} {a b : Nat} (h : ¬ (a ≤ b ∧ b ≤ S.length)) : slice S a b = none := by
  simp [slice, h]

theorem slice_length {S T : List Byte} {a b : Nat} (h : slice S a b = some T) : T.length = b - a := by
  obtain ⟨_, hb, rfl⟩ := slice_eq_some h
  simp only [List.length_drop, List.length_take]
  omega

theorem slice_getElem? {S T : List Byte} {a b i : Nat} (h : slice S a b = some T) (hi : a + i < b) :
    T[i]? = S[a + i]? := by
  obtain ⟨_, _, rfl⟩ := slice_eq_some h
  rw [List.getElem?_drop, List.getElem?_take, if_pos hi]

/-- A little-endian read inside the bounds. -/
theorem le16_of_lt {S : List Byte} {a : Nat} (h : a + 1 < S.length) : le16 S a = some (S[a + 1] ++ S[a]) := by
  simp [le16, h, Nat.lt_of_succ_lt h]

/-! ### The extractor -/

theorem extractRegs_none {P : List Byte} (h : P.length < 39) : extractRegs P = none := by
  simp [extractRegs, extractMin, Nat.not_le.mpr h]

theorem extractRegs_isSome {P : List Byte} (h : 39 ≤ P.length) : ∃ x, extractRegs P = some x := by
  simp [extractRegs, extractMin, h]

/-! ### The nonce -/

theorem nonceOf_none {B : List Byte} (h : B.length < 30) : nonceOf B = none := by
  simp [nonceOf, Config.hdrLen, Nat.not_le.mpr h]

/-- The nonce of a snapshot that has its fields, byte by byte. -/
theorem nonceOf_some {B : List Byte} (h : 30 ≤ B.length) : ∃ nb, nonceOf B = some nb ∧
    (∀ i : Fin 8, B[16 + i.val]? = some nb[i.val]) ∧ (∀ i : Fin 4, B[26 + i.val]? = some nb[8 + i.val]) ∧
    nb[12] = 0 ∧ nb[13] = 0 ∧ nb[14] = 0 ∧ nb[15] = suiteTag := by
  refine ⟨_, by rw [nonceOf, dif_pos (show Config.hdrLen ≤ B.length from h)], ?_, ?_, ?_, ?_, ?_, ?_⟩
  · intro i
    have hi := i.isLt
    simp [hi, show 16 + i.val < B.length by omega]
  · intro i
    have hi := i.isLt
    simp [show 8 + i.val < 12 by omega, show 26 + i.val < B.length by omega]
  · simp
  · simp
  · simp
  · simp

/-! ### APPEND -/

theorem appendIndex_some {s : State} (h : s.len.val < 258) : appendIndex s = some ⟨s.len.val, h⟩ := by
  simp [appendIndex, h]

theorem appendIndex_none {s : State} (h : s.len.val = 258) : appendIndex s = none := by
  simp [appendIndex, h]

/-- What APPEND does while the buffer is not full. -/
theorem execAppend_stores {s : State} (b : Byte) (now : Time) (h : s.len.val < 258) :
    ∃ t, execAppend b now s = .next t ∧ t.FB = Memory.write s.FB s.len.val b ∧ t.len.val = s.len.val + 1 ∧
      t.last = now ∧ t.idle_timeout = s.idle_timeout ∧ t.KEY = s.KEY ∧ t.key_valid = s.key_valid ∧ t.run = s.run ∧
      t.res = ResultRecord.empty ∧ t.port = s.port := by
  simp only [execAppend, appendIndex_some h, Host.Outcome.next.injEq]
  exact ⟨_, rfl, rfl, rfl, rfl, rfl, rfl, rfl, rfl, rfl, rfl⟩

/-- What APPEND does when it is. -/
theorem execAppend_drops {s : State} (b : Byte) (now : Time) (h : s.len.val = 258) :
    execAppend b now s = .next (emitEmpty { s with last := now }) := by
  rw [execAppend, appendIndex_none h]

/-! ### The idle condition -/

theorem frameComplete_iff (s : State) (now : Time) :
    frameComplete s now = true ↔ 0 < s.len.val ∧ s.idle_timeout < sub32 now s.last := by
  simp [frameComplete]

/-! ### The sequencer -/

/-- A run that has ended runs nothing more. -/
@[simp] theorem runToDone_ended (k : Nat) (s : State) (h : s.run = none) : runToDone k s = .next s := by
  cases k <;> simp [runToDone, h]

/-- One micro-operation of the sequence, then the rest. -/
theorem runToDone_succ (k : Nat) (s t : State) (r : Run) (h : s.run = some r) (hm : microOp r.stage s = .next t) :
    runToDone (k + 1) s = runToDone k t := by
  simp [runToDone, h, hm]

end Sys2Proof.Machine
end

