-- ==== Sys2Proof/Laws/Bytes.lean ====
section
/-! SUPPORT. Bytes put together and taken apart: words, the two multi-byte reads, the register fields, the
byte sequences of the cipher and of CTR. -/

namespace Sys2Proof.Machine

/-- Two bytes as a number (R53). -/
theorem toNat_byte_append (hi lo : Byte) : (hi ++ lo).toNat = lo.toNat + 256 * hi.toNat := by
  rw [BitVec.toNat_append, ← Nat.shiftLeft_add_eq_or_of_lt lo.isLt, Nat.shiftLeft_eq]
  omega

/-- Four bytes as a number, the first most significant (R54, R191). -/
theorem toNat_wordOf (b0 b1 b2 b3 : Byte) :
    (wordOf b0 b1 b2 b3).toNat = 16777216 * b0.toNat + 65536 * b1.toNat + 256 * b2.toNat + b3.toNat := by
  have h1 := b1.isLt
  have h2 := b2.isLt
  have h3 := b3.isLt
  simp only [wordOf, BitVec.toNat_append]
  rw [← Nat.shiftLeft_add_eq_or_of_lt h3, ← Nat.shiftLeft_add_eq_or_of_lt h2, ← Nat.shiftLeft_add_eq_or_of_lt h1]
  simp only [Nat.shiftLeft_eq]
  omega

theorem toNat_wordByte (w : Word) (r : Nat) : (wordByte w r).toNat = w.toNat / 2 ^ (24 - 8 * r) % 256 := by
  simp [wordByte, BitVec.extractLsb'_toNat, Nat.shiftRight_eq_div_pow]

@[simp] theorem wordByte_wordOf_0 (b0 b1 b2 b3 : Byte) : wordByte (wordOf b0 b1 b2 b3) 0 = b0 := by
  apply BitVec.eq_of_toNat_eq
  have h0 := b0.isLt
  have h1 := b1.isLt
  have h2 := b2.isLt
  have h3 := b3.isLt
  rw [toNat_wordByte, toNat_wordOf]
  omega

@[simp] theorem wordByte_wordOf_1 (b0 b1 b2 b3 : Byte) : wordByte (wordOf b0 b1 b2 b3) 1 = b1 := by
  apply BitVec.eq_of_toNat_eq
  have h1 := b1.isLt
  have h2 := b2.isLt
  have h3 := b3.isLt
  rw [toNat_wordByte, toNat_wordOf]
  omega

@[simp] theorem wordByte_wordOf_2 (b0 b1 b2 b3 : Byte) : wordByte (wordOf b0 b1 b2 b3) 2 = b2 := by
  apply BitVec.eq_of_toNat_eq
  have h2 := b2.isLt
  have h3 := b3.isLt
  rw [toNat_wordByte, toNat_wordOf]
  omega

@[simp] theorem wordByte_wordOf_3 (b0 b1 b2 b3 : Byte) : wordByte (wordOf b0 b1 b2 b3) 3 = b3 := by
  apply BitVec.eq_of_toNat_eq
  have h3 := b3.isLt
  rw [toNat_wordByte, toNat_wordOf]
  omega

/-- A big-endian read is the word of its four bytes. -/
theorem be32_eq_wordOf (S : List Byte) (a : Nat) (h : a + 4 ≤ S.length) :
    be32 S a h = wordOf S[a] S[a + 1] S[a + 2] S[a + 3] := rfl

@[simp] theorem blockBytes_length (b : AesBlock) : (blockBytes b).length = 16 := by simp [blockBytes, wordBytes]

@[simp] theorem keystreamFrom_length (k nb : AesBlock) (i n : Nat) : (keystreamFrom k nb i n).length = 16 * n := by
  induction n generalizing i with
  | zero => rfl
  | succ n ih =>
    simp only [keystreamFrom, keystreamBlock, List.length_append, blockBytes_length, ih]
    omega

/-- Byte `u` of the keystream is byte `u mod 16` of block `u div 16` (R174). -/
theorem keystreamFrom_getElem? (k nb : AesBlock) (i n u : Nat) (h : u < 16 * n) :
    (keystreamFrom k nb i n)[u]? = (keystreamBlock k nb (i + u / 16))[u % 16]? := by
  induction n generalizing i u with
  | zero => omega
  | succ n ih =>
    have hl : (keystreamBlock k nb i).length = 16 := blockBytes_length _
    rw [keystreamFrom]
    rcases Nat.lt_or_ge u 16 with hu | hu
    · rw [List.getElem?_append_left (by omega), Nat.div_eq_of_lt hu, Nat.mod_eq_of_lt hu]
      rfl
    · have h1 : i + 1 + (u - 16) / 16 = i + u / 16 := by omega
      have h2 : (u - 16) % 16 = u % 16 := by omega
      rw [List.getElem?_append_right (by omega), hl, ih _ _ (by omega), h1, h2]

/-- Byte `i` of an XOR of two sequences. -/
theorem xorBytes_getElem? (a b : List Byte) (i : Nat) :
    (xorBytes a b)[i]? = (a[i]?).bind fun x => (b[i]?).map fun y => x ^^^ y := by
  induction a generalizing b i with
  | nil => simp [xorBytes]
  | cons x xs ih =>
    cases b with
    | nil => simp [xorBytes]
    | cons y ys =>
      cases i with
      | zero => simp [xorBytes]
      | succ i => simp [xorBytes, ih]

theorem xorBytes_length (a b : List Byte) (h : a.length ≤ b.length) : (xorBytes a b).length = a.length := by
  induction a generalizing b with
  | nil => simp [xorBytes]
  | cons x xs ih =>
    cases b with
    | nil => simp at h
    | cons y ys => simp [xorBytes, ih ys (by simpa using h)]

/-- A counter block is the nonce block with byte 15 replaced (R173). -/
theorem blockOf_set_last (v : Vector Byte 16) (i : Nat) :
    blockOf (v.set 15 (BitVec.ofNat 8 (2 + i))) = counterBlock (blockOf v) i := by
  simp [blockOf, counterBlock]

/-- The extracted registers, when the fields are in bounds. -/
theorem extractRegs_eq {P : List Byte} (h : 39 ≤ P.length) :
    extractRegs P = some (Vector.ofFn fun i : Fin 8 =>
      be32 P (P.length - 39 + 5 * i.val) (by have := i.isLt; omega)) := by
  unfold extractRegs
  rw [dif_pos (show extractMin ≤ P.length from h)]
  rfl

end Sys2Proof.Machine
end

