-- ==== Sys2Proof/Laws/Encoding.lean ====
section
/-! SUPPORT. The fields of a command word put together by `cmdWord`, and the numeric value of a field. -/

namespace Sys2Proof

theorem toNat_opField (w : CmdWord) : (opField w).toNat = w.toNat % 2 ^ 3 := by
  simp [opField, BitVec.extractLsb'_toNat]

theorem toNat_nowField (w : CmdWord) : (nowField w).toNat = w.toNat / 2 ^ 3 % 2 ^ 32 := by
  simp [nowField, BitVec.extractLsb'_toNat, Nat.shiftRight_eq_div_pow]

theorem toNat_argField (w : CmdWord) : (argField w).toNat = w.toNat / 2 ^ 35 % 2 ^ 128 := by
  simp [argField, BitVec.extractLsb'_toNat, Nat.shiftRight_eq_div_pow]

theorem toNat_argByte (a : BitVec 128) (i : Nat) : (argByte a i).toNat = a.toNat / 2 ^ (8 * i) % 2 ^ 8 := by
  simp [argByte, BitVec.extractLsb'_toNat, Nat.shiftRight_eq_div_pow]

theorem toNat_timeoutOperand (a : BitVec 128) : (timeoutOperand a).toNat = a.toNat % 2 ^ 32 := by
  simp [timeoutOperand, BitVec.extractLsb'_toNat]

theorem toNat_cmdWord (op : BitVec 3) (now : Time) (arg : BitVec 128) :
    (cmdWord op now arg).toNat = arg.toNat * 2 ^ 35 + now.toNat * 2 ^ 3 + op.toNat := by
  have h1 := op.isLt
  have h2 := now.isLt
  have h3 := arg.isLt
  rw [cmdWord, BitVec.toNat_ofNat, Nat.mod_eq_of_lt (by omega)]

@[simp] theorem opField_cmdWord (op : BitVec 3) (now : Time) (arg : BitVec 128) : opField (cmdWord op now arg) = op := by
  have h1 := op.isLt
  apply BitVec.eq_of_toNat_eq
  rw [toNat_opField, toNat_cmdWord]
  omega

@[simp] theorem nowField_cmdWord (op : BitVec 3) (now : Time) (arg : BitVec 128) :
    nowField (cmdWord op now arg) = now := by
  have h1 := op.isLt
  have h2 := now.isLt
  apply BitVec.eq_of_toNat_eq
  rw [toNat_nowField, toNat_cmdWord]
  omega

@[simp] theorem argField_cmdWord (op : BitVec 3) (now : Time) (arg : BitVec 128) :
    argField (cmdWord op now arg) = arg := by
  have h1 := op.isLt
  have h2 := now.isLt
  have h3 := arg.isLt
  apply BitVec.eq_of_toNat_eq
  rw [toNat_argField, toNat_cmdWord]
  omega

/-! ### Decoding by operation code (R81) -/

theorem decodeCmd_op0 (w : CmdWord) (h : opField w = 0) : decodeCmd w = .reserved0 := by
  unfold decodeCmd
  rw [h]
  rfl

theorem decodeCmd_op1 (w : CmdWord) (h : opField w = 1) : decodeCmd w = .reset := by
  unfold decodeCmd
  rw [h]
  rfl

theorem decodeCmd_op2 (w : CmdWord) (h : opField w = 2) : decodeCmd w = .keyload (keyOperand (argField w)) := by
  unfold decodeCmd
  rw [h]
  rfl

theorem decodeCmd_op3 (w : CmdWord) (h : opField w = 3) : decodeCmd w = .setto (timeoutOperand (argField w)) := by
  unfold decodeCmd
  rw [h]
  rfl

theorem decodeCmd_op4 (w : CmdWord) (h : opField w = 4) : decodeCmd w = .append (byteOperand (argField w)) (nowField w) := by
  unfold decodeCmd
  rw [h]
  rfl

theorem decodeCmd_op5 (w : CmdWord) (h : opField w = 5) : decodeCmd w = .poll (nowField w) := by
  unfold decodeCmd
  rw [h]
  rfl

theorem decodeCmd_op6 (w : CmdWord) (h : opField w = 6) : decodeCmd w = .reserved6 := by
  unfold decodeCmd
  rw [h]
  rfl

theorem decodeCmd_op7 (w : CmdWord) (h : opField w = 7) : decodeCmd w = .reserved7 := by
  unfold decodeCmd
  rw [h]
  rfl

end Sys2Proof
end

