-- ==== Sys2Proof/Laws/Memory.lean ====
section
/-! SUPPORT. The byte space: read after write, and that every operation keeps the canonical form. -/

namespace Sys2Proof.Machine

@[simp] theorem Memory.read_empty (a : Nat) : Memory.read Memory.empty a = Memory.filler := rfl

@[simp] theorem Memory.wf_empty : Memory.wf Memory.empty := ⟨List.Pairwise.nil, by simp [Memory.empty]⟩

/-! ### The parts of a write -/

theorem Memory.mem_erase (m : Memory) (a : Nat) (c : Host.Cell) : c ∈ Memory.erase m a ↔ c ∈ m ∧ c.1 ≠ a := by
  simp [Memory.erase]

theorem Memory.read_erase (m : Memory) (a a' : Nat) :
    Memory.read (Memory.erase m a) a' = if a' = a then Memory.filler else Memory.read m a' := by
  induction m with
  | nil => simp [Memory.erase, Memory.read]
  | cons c m ih =>
    obtain ⟨k, v⟩ := c
    simp only [Memory.erase] at ih
    by_cases hk : k = a
    · subst hk
      simp only [Memory.erase, List.filter_cons, bne_self_eq_false, Bool.false_eq_true, if_false, ih, Memory.read]
      split <;> simp_all
    · simp only [Memory.erase, List.filter_cons, bne_iff_ne, ne_eq, hk, not_false_eq_true, if_true, Memory.read, ih]
      by_cases h : a' = k
      · simp [h, hk]
      · simp [h]

theorem Memory.mem_insert (m : Memory) (a : Nat) (b : Byte) (c : Host.Cell) :
    c ∈ Memory.insert m a b ↔ c = (a, b) ∨ c ∈ m := by
  induction m with
  | nil => simp [Memory.insert]
  | cons d m ih =>
    obtain ⟨k, v⟩ := d
    unfold Memory.insert
    split
    · simp
    · simp only [List.mem_cons, ih]
      tauto

/-- Putting in an address that is not there yet. -/
theorem Memory.read_insert (m : Memory) (a a' : Nat) (b : Byte) (h : ∀ c ∈ m, c.1 ≠ a) :
    Memory.read (Memory.insert m a b) a' = if a' = a then b else Memory.read m a' := by
  induction m with
  | nil => simp [Memory.insert, Memory.read]
  | cons d m ih =>
    obtain ⟨k, v⟩ := d
    have hk : k ≠ a := h (k, v) (by simp)
    unfold Memory.insert
    split
    · simp [Memory.read]
    · rw [Memory.read, ih fun c hc => h c (by simp [hc]), Memory.read]
      by_cases ha : a' = k
      · simp [ha, hk]
      · simp [ha]

theorem Memory.insert_rising (m : Memory) (a : Nat) (b : Byte) (h : (m.map Prod.fst).Pairwise (· < ·))
    (ha : ∀ c ∈ m, c.1 ≠ a) : ((Memory.insert m a b).map Prod.fst).Pairwise (· < ·) := by
  induction m with
  | nil => simp [Memory.insert]
  | cons d m ih =>
    obtain ⟨k, v⟩ := d
    have hk : k ≠ a := ha (k, v) (by simp)
    simp only [List.map_cons, List.pairwise_cons] at h
    unfold Memory.insert
    split
    · rename_i hlt
      simp only [List.map_cons, List.pairwise_cons, List.mem_cons]
      refine ⟨?_, h⟩
      rintro x (rfl | hx)
      · exact hlt
      · exact hlt.trans (h.1 x hx)
    · simp only [List.map_cons, List.pairwise_cons]
      refine ⟨?_, ih h.2 fun c hc => ha c (by simp [hc])⟩
      intro x hx
      obtain ⟨c, hc, rfl⟩ := List.mem_map.mp hx
      rcases (Memory.mem_insert m a b c).mp hc with rfl | hc
      · simp only
        omega
      · exact h.1 _ (List.mem_map.mpr ⟨c, hc, rfl⟩)

/-! ### The write -/

/-- Read after write, in every space. -/
theorem Memory.read_write (m : Memory) (a a' : Nat) (b : Byte) :
    Memory.read (Memory.write m a b) a' = if a' = a then b else Memory.read m a' := by
  unfold Memory.write
  split
  · rename_i h
    rw [Memory.read_erase, h]
  · rw [Memory.read_insert _ _ _ _ fun c hc => ((Memory.mem_erase m a c).mp hc).2, Memory.read_erase]
    split <;> simp_all

theorem Memory.read_write_same (m : Memory) (a : Nat) (b : Byte) : Memory.read (Memory.write m a b) a = b := by
  rw [Memory.read_write, if_pos rfl]

theorem Memory.read_write_other (m : Memory) (a a' : Nat) (b : Byte) (h : a' ≠ a) :
    Memory.read (Memory.write m a b) a' = Memory.read m a' := by
  rw [Memory.read_write, if_neg h]

/-- A cell listed after a write was written or listed before. -/
theorem Memory.mem_write (m : Memory) (a : Nat) (b : Byte) (c : Host.Cell) (h : c ∈ Memory.write m a b) :
    c = (a, b) ∨ c ∈ m := by
  unfold Memory.write at h
  split at h
  · exact .inr ((Memory.mem_erase m a c).mp h).1
  · exact ((Memory.mem_insert _ a b c).mp h).imp id fun h => ((Memory.mem_erase m a c).mp h).1

/-- A write keeps the canonical form. -/
theorem Memory.wf_write (m : Memory) (a : Nat) (b : Byte) (h : Memory.wf m) : Memory.wf (Memory.write m a b) := by
  have hr : ((Memory.erase m a).map Prod.fst).Pairwise (· < ·) :=
    h.1.sublist (List.filter_sublist.map Prod.fst)
  have hv : ∀ c ∈ Memory.erase m a, c.2 ≠ Memory.filler := fun c hc => h.2 c ((Memory.mem_erase m a c).mp hc).1
  unfold Memory.write
  split
  · exact ⟨hr, hv⟩
  · rename_i hb
    refine ⟨Memory.insert_rising _ a b hr fun c hc => ((Memory.mem_erase m a c).mp hc).2, ?_⟩
    intro c hc
    rcases (Memory.mem_insert _ a b c).mp hc with rfl | hc
    · exact hb
    · exact hv c hc

/-! ### Several bytes -/

@[simp] theorem Memory.readBytes_length (m : Memory) (a n : Nat) : (Memory.readBytes m a n).length = n := by
  simp [Memory.readBytes]

theorem Memory.readBytes_getElem? (m : Memory) (a n i : Nat) (h : i < n) :
    (Memory.readBytes m a n)[i]? = some (Memory.read m (a + i)) := by
  simp [Memory.readBytes, h]

end Sys2Proof.Machine
end

