-- ==== Sys2Proof/Laws/PerInstr.lean ====
section
/-! SUPPORT. The per-instruction family EncodingFormat: which of the two formats the word of an instruction has,
and that a command word carries a reserved operation code exactly for the three reserved rows (R81, R84, R105). -/

namespace Sys2Proof.Laws.EncodingFormat

/-- A host command or a reserved code is encoded as a command word, whose `op` is 0, 6 or 7 exactly when the
instruction is a reserved code; a micro-operation is encoded as a sequencer code. -/
def Statement (i : Instr) : Prop :=
  match encode i with
  | .cmd w => i.isStage = false ∧ (i.isReserved = true ↔ (opField w = 0 ∨ opField w = 6 ∨ opField w = 7))
  | .stage _ => i.isStage = true ∧ i.isReserved = false

theorem reset : Statement (.reset) := by simp [Statement, encode, Instr.isStage, Instr.isReserved]

theorem keyload (k : Vector Byte 16) : Statement (.keyload k) := by simp [Statement, encode, Instr.isStage, Instr.isReserved]

theorem setto (t : Time) : Statement (.setto t) := by simp [Statement, encode, Instr.isStage, Instr.isReserved]

theorem append (b : Byte) (now : Time) : Statement (.append b now) := by simp [Statement, encode, Instr.isStage, Instr.isReserved]

theorem poll (now : Time) : Statement (.poll now) := by simp [Statement, encode, Instr.isStage, Instr.isReserved]

theorem reserved0 : Statement (.reserved0) := by simp [Statement, encode, Instr.isStage, Instr.isReserved]

theorem reserved6 : Statement (.reserved6) := by simp [Statement, encode, Instr.isStage, Instr.isReserved]

theorem reserved7 : Statement (.reserved7) := by simp [Statement, encode, Instr.isStage, Instr.isReserved]

theorem done : Statement .done := ⟨rfl, rfl⟩

theorem chkMin : Statement .chkMin := ⟨rfl, rfl⟩

theorem chkOpen : Statement .chkOpen := ⟨rfl, rfl⟩

theorem chkLen : Statement .chkLen := ⟨rfl, rfl⟩

theorem chkClose : Statement .chkClose := ⟨rfl, rfl⟩

theorem chkCrc : Statement .chkCrc := ⟨rfl, rfl⟩

theorem chkModel : Statement .chkModel := ⟨rfl, rfl⟩

theorem chkKey : Statement .chkKey := ⟨rfl, rfl⟩

theorem nonce : Statement .nonce := ⟨rfl, rfl⟩

theorem ctr : Statement .ctr := ⟨rfl, rfl⟩

theorem integ : Statement .integ := ⟨rfl, rfl⟩

theorem extract : Statement .extract := ⟨rfl, rfl⟩

theorem mapE : Statement .mapE := ⟨rfl, rfl⟩

theorem mapP : Statement .mapP := ⟨rfl, rfl⟩

theorem mapS : Statement .mapS := ⟨rfl, rfl⟩

theorem publish : Statement .publish := ⟨rfl, rfl⟩

end Sys2Proof.Laws.EncodingFormat
end

