-- ==== Sys2Proof/Laws/Safety.lean ====
section
/-! SUPPORT. The checks of Sys2Proof/Safety.lean as propositions, and what the invariant gives a reader of it. -/

namespace Sys2Proof.Machine

@[simp] theorem runOk_iff (k : Bool) (r : Run) : runOk k r = true ↔ RunOk k r := decide_eq_true_iff

@[simp] theorem recordOk_iff (c : ResultRecord) : recordOk c = true ↔ RecordOk c := decide_eq_true_iff

/-- The record without a reading at the result port after a reset or a command that flushes nothing. -/
theorem recordOk_empty : RecordOk ResultRecord.empty := by decide

end Sys2Proof.Machine
end

