-- ==== Sys2Proof/Laws/Step.lean ====
section
/-! SUPPORT. The step: the two views of a micro-operation, several steps one by one, and the two conditions of
Flags.lean as propositions. -/

namespace Sys2Proof.Machine

/-- The micro-operation the sequencer runs inside POLL is the instruction its position decodes to. -/
theorem microOp_eq_exec (c : StageCode) (s : State) : microOp c s = exec (decodeStage c) s := by
  have h : ∀ n : Fin 16, microOp (BitVec.ofFin n) s = exec (decodeStage (BitVec.ofFin n)) s := by
    intro n
    fin_cases n <;> rfl
  exact h c.toFin

/-- What a sequencer position decodes to is a micro-operation. -/
theorem decodeStage_isStage (c : StageCode) : (decodeStage c).isStage = true := by
  revert c
  decide

/-- What a command word decodes to is none. -/
theorem decodeCmd_isStage (w : CmdWord) : (decodeCmd w).isStage = false := by
  unfold decodeCmd
  split <;> rfl

@[simp] theorem core_run_zero (s : State) : core.run 0 s = .next s := rfl

/-- One step that goes on, then the rest. -/
theorem core_run_succ {s t : State} (k : Nat) (h : step s = .next t) : core.run (k + 1) s = core.run k t := by
  have hc : core.step s = .next t := h
  simp only [Host.Core.run, hc]

/-- The silence is above the timeout, as numbers (R11, R124). -/
theorem lt_sub32_iff (now last u : Time) :
    u < sub32 now last ↔ u.toNat < (now.toNat + 2 ^ 32 - last.toNat) % 2 ^ 32 := by
  rw [BitVec.lt_def, sub32, BitVec.toNat_sub]
  have hn := now.isLt
  have hl := last.isLt
  rw [show 2 ^ 32 - last.toNat + now.toNat = now.toNat + 2 ^ 32 - last.toNat by omega]

/-- The marker pattern, byte by byte (R175). -/
theorem markersOk_iff (P : List Byte) : markersOk P = true ↔
    P[0]? = some leadMarker ∧ ∀ k, 1 ≤ k → k ≤ 8 → 5 * k ≤ P.length ∧ P[P.length - 5 * k]? = some sepMarker := by
  simp only [markersOk, sepMarkerOk, Bool.and_eq_true, beq_iff_eq, List.all_eq_true, decide_eq_true_eq]
  refine and_congr_right fun _ => ⟨fun h k h1 h8 => h k ?_, fun h k hk => h k ?_ ?_⟩
  · simp only [List.mem_cons, List.not_mem_nil, or_false]
    omega
  · simp only [List.mem_cons, List.not_mem_nil, or_false] at hk
    omega
  · simp only [List.mem_cons, List.not_mem_nil, or_false] at hk
    omega

end Sys2Proof.Machine
end

