-- ==== Sys2Proof/Tests/Slice0.lean ====
section
/-! SUPPORT. Tests on fixed values and the witnesses of the statements' hypotheses. Expected values are those of
spec/95_test_vectors.md (its ids are in the docstrings) and of the encodings of spec/30_encoding.md, or follow by hand
from the rule a docstring names. -/

namespace Sys2Proof.Tests

set_option Elab.async false
open Sys2Proof Sys2Proof.Machine

/-! ### Frames and states -/

/-- `REF` of section 0. -/
def ref : List Byte :=
  [0x7E, 0xA0, 0x7A, 0x03, 0x04, 0x05, 0x06, 0x07, 0x08, 0x09, 0x0A, 0x0B, 0x0C, 0x0D, 0x0E, 0x0F,
    0x4B, 0x68, 0x75, 0x36, 0x86, 0x11, 0x22, 0x33, 0x18, 0x19, 0x00, 0x00, 0x12, 0x34, 0x3F, 0x04,
    0x57, 0xE6, 0x05, 0x7B, 0x93, 0x98, 0xE7, 0xC5, 0xC5, 0xE9, 0x03, 0x48, 0x1D, 0xFD, 0x14, 0xFA] ++
  [0x24, 0x67, 0x13, 0x5C, 0x4B, 0x5F, 0x56, 0xBF, 0x23, 0xBD, 0x80, 0xB0, 0x66, 0xC6, 0xFB, 0x42,
    0xF6, 0x0D, 0x17, 0x04, 0x34, 0x7B, 0x9A, 0x24, 0xA7, 0x27, 0x6A, 0x77, 0x4D, 0xE6, 0x80, 0xDA,
    0x1D, 0x0A, 0x83, 0xC3, 0x2E, 0x6E, 0xA3, 0x44, 0x82, 0xC5, 0x72, 0xCF, 0xF3, 0x96, 0x39, 0x54] ++
  [0xDB, 0x34, 0xB3, 0x05, 0x2E, 0x63, 0x65, 0x89, 0xCD, 0x37, 0x69, 0xB5, 0x03, 0xF2, 0xD9, 0x44,
    0x5E, 0x69, 0xE0, 0xBA, 0x9A, 0x27, 0x66, 0x66, 0x22, 0xC4, 0x3E, 0x7E]

/-- `S0` of section 4.3, the shortest frame that passes the validator. -/
def frameS0 : List Byte :=
  [0x7E, 0xA0, 0x1F, 0x03, 0x04, 0x05, 0x06, 0x07, 0x08, 0x09, 0x0A, 0x0B, 0x0C, 0x0D, 0x0E, 0x0F,
    0x4B, 0x68, 0x75, 0x36, 0x86, 0x11, 0x22, 0x33, 0x18, 0x19, 0x00, 0x00, 0x12, 0x34, 0x76, 0xBD, 0x7E]

/-- `S40` of section 4.3. -/
def frameS40 : List Byte :=
  [0x7E, 0xA0, 0x47, 0x03, 0x04, 0x05, 0x06, 0x07, 0x08, 0x09, 0x0A, 0x0B, 0x0C, 0x0D, 0x0E, 0x0F,
    0x4B, 0x68, 0x75, 0x36, 0x86, 0x11, 0x22, 0x33, 0x18, 0x19, 0x00, 0x00, 0x12, 0x34, 0x36, 0xFA] ++
  [0xAA, 0x1A, 0xFE, 0x78, 0x15, 0x9F, 0xEF, 0xCC, 0xC9, 0xE2, 0x1D, 0x93, 0x94, 0xF4, 0x04, 0xF5,
    0xB2, 0xF4, 0x01, 0x49, 0x5D, 0x4D, 0x92, 0xA0, 0x38, 0xA6, 0x9C, 0xAC, 0x7E, 0xD8, 0xDB, 0x63,
    0xD7, 0x28, 0xCC, 0xDE, 0xED, 0x23, 0xA7, 0xD5, 0x7E]

/-- `S41` of section 4.3. -/
def frameS41 : List Byte :=
  [0x7E, 0xA0, 0x48, 0x03, 0x04, 0x05, 0x06, 0x07, 0x08, 0x09, 0x0A, 0x0B, 0x0C, 0x0D, 0x0E, 0x0F,
    0x4B, 0x68, 0x75, 0x36, 0x86, 0x11, 0x22, 0x33, 0x18, 0x19, 0x00, 0x00, 0x12, 0x34, 0x3F, 0x03] ++
  [0xAA, 0x1A, 0xFE, 0x81, 0x93, 0x1F, 0xEF, 0xCC, 0xCF, 0xE4, 0x0F, 0x57, 0xC5, 0x75, 0x02, 0xEB,
    0x28, 0xF0, 0x87, 0x4F, 0x5D, 0x48, 0x4B, 0x7A, 0x3F, 0xA7, 0x9C, 0xAD, 0x79, 0xDF, 0xDA, 0x63,
    0xD4, 0x2D, 0x35, 0xDE, 0xED, 0xA3, 0xCD, 0x7B, 0xEB, 0x7E]

/-- `P(S41)` of section 4.3. -/
def payload41 : List Byte :=
  [0x0F, 0x06, 0xFF, 0xFF, 0xFF, 0xFF, 0x06, 0x80, 0x00, 0x00, 0x00, 0x06, 0x00, 0x12, 0xD6, 0x87,
    0x06, 0x00, 0x1E, 0x84, 0x80, 0x06, 0x00, 0x00, 0x05, 0xDC, 0x06, 0x01, 0x00, 0x00, 0x01, 0x06,
    0x01, 0x00, 0x00, 0x03, 0x06, 0xFF, 0xFF, 0xFF, 0x7F]

/-- Registers 0 to 7 of `S41` (V-EXT-2). -/
def regs41 : Vector Word 8 :=
  #v[4294967295, 2147483648, 1234567, 2000000, 1500, 16777217, 16777219, 4294967167]

/-- The key of section 0. -/
def key : Vector Byte 16 := #v[0, 1, 2, 3, 4, 5, 6, 7, 8, 9, 10, 11, 12, 13, 14, 15]

/-- The frame buffer holding given bytes. -/
def cells (bs : List Byte) : Memory := ((List.range bs.length).zip bs).filter fun c => c.2 != Memory.filler

/-- Bytes in the frame buffer, the last at time 123, and the key of section 0. -/
def loaded (bs : List Byte) : State :=
  { State.reset with FB := cells bs, len := Fin.ofNat 259 bs.length, last := 123, KEY := key, key_valid := true }

/-- The same without a key. -/
def unkeyed (bs : List Byte) : State := { loaded bs with KEY := noKey, key_valid := false }

/-- A run on `B` standing at `stage`, with the key of section 0. -/
def running (B : List Byte) (stage : StageCode) : State :=
  { loaded [] with run := some { startRun B with stage := stage } }

/-- The same with a given payload. -/
def runningOn (P : List Byte) (stage : StageCode) : State :=
  { loaded [] with run := some { startRun frameS0 with stage := stage, PB := P } }

/-- What a record says in short: valid, code, warning, reading. -/
def brief (r : Result) : Option (Bool × Nat × Bool × Bool) :=
  match r with
  | .next s => some (s.res.res_valid, s.res.res_code.toNat, s.res.res_warn, s.res.rd_valid)
  | _ => none

/-- The numbers and strings of a record. -/
def values (r : Result) : Option (List Binary32 × List Binary32 × List (List Byte)) :=
  match r with
  | .next s => some (s.res.e.toList, s.res.p.toList, (List.finRange 4).map fun i =>
      (s.res.s_chr[i.val]).toList.take (s.res.s_len[i.val]).toNat)
  | _ => none

/-- Whether the run after a result satisfies a check. -/
def runIs (r : Result) (f : Run → Bool) : Bool :=
  match r with
  | .next s => s.run.any f
  | _ => false

/-- Whether the state after a result satisfies a check. -/
def next (r : Result) (f : State → Bool) : Bool :=
  match r with
  | .next s => f s
  | _ => false

/-! ### Decoding: every constructor by a word written out from R80 to R84, R105 (cw = arg·2^35 + now·2^3 + op) -/

theorem test_decode_reset : decodeTableWord 168 0x1 = some .reset := by decide
theorem test_decode_reset_unused_bits : decodeTableWord 168 (2 ^ 163 - 7) = some .reset := by decide
theorem test_decode_keyload :
    decodeTableWord 168 0x7870686058504840383028201810080000000002 = some (.keyload key) := by decide
theorem test_decode_setto : decodeTableWord 168 0x5000000003 = some (.setto 10) := by decide
theorem test_decode_append : decodeTableWord 168 0x50000001F4C = some (.append 0xA0 1001) := by decide
theorem test_decode_poll : decodeTableWord 168 0x2645 = some (.poll 1224) := by decide
theorem test_decode_reserved : decodeTableWord 168 0x8 = some .reserved0 ∧ decodeTableWord 168 0x6 = some .reserved6 ∧
    decodeTableWord 168 0x7 = some .reserved7 := by decide
theorem test_decode_stages_0_to_7 : (List.range 8).map (decodeTableWord 8) =
    [some .done, some .chkMin, some .chkOpen, some .chkLen, some .chkClose, some .chkCrc, some .chkModel,
      some .chkKey] := by decide
theorem test_decode_stages_8_to_15 : (List.range 8).map (fun n => decodeTableWord 8 (8 + n)) =
    [some .nonce, some .ctr, some .integ, some .extract, some .mapE, some .mapP, some .mapS,
      some .publish] := by decide
theorem test_encode_append : encode (.append 0x7E 10) = .cmd 0x3F000000054 := by decide
theorem test_encode_keyload_reversed :
    encode (.keyload #v[15, 14, 13, 12, 11, 10, 9, 8, 7, 6, 5, 4, 3, 2, 1, 0]) =
      .cmd 0x8101820283038404850586068707800000002 := by decide

/-! ### Well-formedness: an ill-formed term for each check -/

theorem test_wf_stage_too_wide : RawWord.wellFormed 8 0x10 = false ∧ decodeTableWord 8 0x10 = none := by decide
theorem test_wf_command_too_wide : RawWord.wellFormed 168 (2 ^ 163) = false ∧ decodeTableWord 168 (2 ^ 163) = none := by
  decide
theorem test_wf_words : RawWord.wellFormed 8 0xF = true ∧ RawWord.wellFormed 168 (2 ^ 163 - 1) = true := by decide
theorem test_wf_trace_with_micro_operation : Trace.wellFormed [.reset, .chkMin] = false := by decide
theorem test_wf_trace_with_reserved_code : Trace.wellFormed [.reset, .reserved6] = false := by decide
theorem test_wf_trace : Trace.wellFormed [.reset, .keyload key, .setto 10, .append 0x7E 1, .poll 2] = true := by decide

/-! ### The functions of the datapath -/

/-- V-CRC-1, V-CRC-4, V-CRC-5. -/
theorem test_crc : crc16 [] = 0x0000 ∧ crc16 [0xA0] = 0x5572 ∧
    crc16 [0x31, 0x32, 0x33, 0x34, 0x35, 0x36, 0x37, 0x38, 0x39] = 0x906E := by decide +kernel

/-- V-AES-3. -/
theorem test_aes_zero : aes128 ⟨0, 0, 0, 0⟩ ⟨0, 0, 0, 0⟩ = ⟨0x66e94bd4, 0xef8a2c3b, 0x884cfa59, 0xca342b2e⟩ := by
  decide +kernel

/-- The component checks of section 3. -/
theorem test_aes_components : xtime 0x57 = 0xAE ∧ xtime 0xAE = 0x47 ∧ sbox 0x00 = 0x63 ∧ sbox 0x53 = 0xED ∧
    Ref.gfMul 8 0x57 0x13 = 0xFE := by decide +kernel

/-- V-CTR-4. -/
theorem test_ctr_seventeen_bytes :
    ctrCrypt ⟨0x00010203, 0x04050607, 0x08090a0b, 0x0c0d0e0f⟩ ⟨0x4B687536, 0x86112233, 0x00001234, 0x00000002⟩
      ((List.range 17).map (BitVec.ofNat 8)) =
    [0x30, 0x04, 0x57, 0xE6, 0x05, 0x7B, 0x93, 0x98, 0xE7, 0xC5, 0xC5, 0xE9, 0x03, 0x48, 0x1D, 0xFD, 0x14] := by
  decide +kernel

/-- V-MAP-2, V-MAP-4, V-MAP-8, V-MAP-9, V-MAP-13. -/
theorem test_scaleEnergy : scaleEnergy 1 = 0x3A83126F ∧ scaleEnergy 999 = 0x3F7FBE77 ∧ scaleEnergy 999999 = 0x4479FFF0 ∧
    scaleEnergy 1000000 = 0 ∧ scaleEnergy 2147483648 = 0x43F1D2F2 := by decide +kernel

/-- V-MAP-20, V-MAP-27, V-MAP-29, V-MAP-34, V-MAP-35. -/
theorem test_passPower : passPower 0 = 0 ∧ passPower 16777217 = 0x4B800000 ∧ passPower 16777219 = 0x4B800002 ∧
    passPower 4294967167 = 0x4F7FFFFF ∧ passPower 4294967168 = 0x4F800000 := by decide +kernel

/-- V-MAP-40, V-MAP-44, V-MAP-45. -/
theorem test_decStr : decStr 0 = ⟨1, #v[0x30, 0, 0, 0, 0, 0, 0, 0, 0, 0]⟩ ∧
    decStr 10000500 = ⟨8, #v[0x31, 0x30, 0x30, 0x30, 0x30, 0x35, 0x30, 0x30, 0, 0]⟩ ∧
    decStr 4294967295 = ⟨10, #v[0x34, 0x32, 0x39, 0x34, 0x39, 0x36, 0x37, 0x32, 0x39, 0x35]⟩ := by decide +kernel

/-- V-EXT-2. -/
theorem test_extractRegs : extractRegs payload41 = some regs41 := by decide +kernel

/-- R107: FEED, the times modulo 2^32. -/
theorem test_feed : feed 0xFFFFFFFF 1 [0x7E, 0xA0] = [.append 0x7E 0xFFFFFFFF, .append 0xA0 0] := by decide

/-! ### One step of each instruction -/

/-- R120, its example. -/
theorem test_reset : next (exec .reset { loaded (ref.take 57) with last := 9000, idle_timeout := 10 }) (fun s =>
    s = State.reset) = true := by decide

/-- R121, its example. -/
theorem test_keyload_first : next (exec (.keyload key) State.reset) (fun s =>
    s = { State.reset with KEY := key, key_valid := true }) = true := by decide
theorem test_keyload_second : next (exec (.keyload (Vector.ofFn fun _ => 0xFF)) (loaded [])) (fun s => s = loaded []) =
    true := by decide

/-- R122. -/
theorem test_setto : next (exec (.setto 10) State.reset) (fun s => s = { State.reset with idle_timeout := 10 }) = true := by
  decide

/-- R123, its example. -/
theorem test_append : next (exec (.append 0x7A 1002) (unkeyed [0x7E, 0xA0])) (fun s =>
    s = { unkeyed [0x7E, 0xA0, 0x7A] with last := 1002 }) = true := by decide
/-- R123: the drop at 258. -/
theorem test_append_full : next (exec (.append 0x55 300) { State.reset with len := 258 }) (fun s =>
    s = { State.reset with len := 258, last := 300 }) = true := by decide

/-- PR2: 111 − 11 = 100 does not flush; 112 − 11 does, code 1. -/
theorem test_poll_strict : brief (exec (.poll 111) { unkeyed [0x7E, 0xA0] with last := 11 }) =
    some (false, 0, false, false) := by decide
theorem test_poll_too_short : brief (exec (.poll 112) { unkeyed [0x7E, 0xA0] with last := 11 }) =
    some (true, 1, false, false) := by decide

/-- R84. -/
theorem test_reserved : exec .reserved0 State.reset = .next State.reset ∧ exec .reserved6 State.reset = .next State.reset ∧
    exec .reserved7 State.reset = .next State.reset := by
  exact ⟨rfl, rfl, rfl⟩

theorem test_done : next (exec .done (running ref 0)) (fun s => s = loaded []) = true := by decide

/-- R140: 32 raises, 33 passes. -/
theorem test_chkMin_short : brief (exec .chkMin (running (ref.take 32) 1)) = some (true, 1, false, false) := by decide
theorem test_chkMin_passes : runIs (exec .chkMin (running (ref.take 33) 1)) (fun r => r.stage = 2) = true := by decide

/-- V-VAL-4. -/
theorem test_chkOpen_raises : brief (exec .chkOpen (running (ref.set 1 0xA1) 2)) = some (true, 2, false, false) := by decide +kernel
theorem test_chkOpen_passes : runIs (exec .chkOpen (running ref 2)) (fun r => r.stage = 3) = true := by decide

/-- V-VAL-6, and R142: `B[2] = 0xFF` declares 257. -/
theorem test_chkLen_raises : brief (exec .chkLen (running (ref.set 2 0x7B) 3)) = some (true, 3, false, false) := by decide +kernel
theorem test_chkLen_longest : runIs (exec .chkLen (running ([0x7E, 0xA0, 0xFF] ++ List.replicate 254 0x00) 3))
    (fun r => r.stage = 4) = true := by decide +kernel

/-- V-VAL-7. -/
theorem test_chkClose_raises : brief (exec .chkClose (running (ref.set 123 0x7F) 4)) = some (true, 4, false, false) := by
  decide +kernel
theorem test_chkClose_passes : runIs (exec .chkClose (running ref 4)) (fun r => r.stage = 5) = true := by decide +kernel

/-- V-CRC-18 (the stored bytes swapped), V-CRC-6. -/
theorem test_chkCrc_raises : brief (exec .chkCrc (running ((ref.set 121 0x3E).set 122 0xC4) 5)) =
    some (true, 5, false, false) := by decide +kernel
theorem test_chkCrc_passes : runIs (exec .chkCrc (running ref 5)) (fun r => r.stage = 6) = true := by decide +kernel

/-- R145. -/
theorem test_chkModel_warns : runIs (exec .chkModel (running (ref.set 20 0x87) 6)) (fun r => r.warn && r.stage = 7) =
    true := by decide +kernel
theorem test_chkModel_silent : runIs (exec .chkModel (running ref 6)) (fun r => !r.warn && r.stage = 7) = true := by decide +kernel

/-- R172. -/
theorem test_chkKey_raises : brief (exec .chkKey { running ref 7 with key_valid := false, KEY := noKey }) =
    some (true, 8, false, false) := by decide +kernel
theorem test_chkKey_passes : runIs (exec .chkKey (running ref 7)) (fun r => r.stage = 8) = true := by decide

/-- V-DEC-7. -/
theorem test_nonce : runIs (exec .nonce (running ref 8)) (fun r =>
    r.NB = #v[0x4B, 0x68, 0x75, 0x36, 0x86, 0x11, 0x22, 0x33, 0x00, 0x00, 0x12, 0x34, 0x00, 0x00, 0x00, 0x02]) = true := by
  decide +kernel

/-- `S41` decrypts to `P(S41)`. -/
theorem test_ctr : runIs (exec .ctr { loaded [] with run := some { startRun frameS41 with
    NB := #v[0x4B, 0x68, 0x75, 0x36, 0x86, 0x11, 0x22, 0x33, 0x00, 0x00, 0x12, 0x34, 0x00, 0x00, 0x00, 0x02] } })
    (fun r => r.PB = payload41 && r.stage = 10) = true := by decide +kernel

/-- V-DEC-6, and R175 corner case a with the shortest payload. -/
theorem test_integ_passes : runIs (exec .integ (runningOn payload41 10)) (fun r => r.stage = 11) = true := by decide
theorem test_integ_empty : brief (exec .integ (runningOn [] 10)) = some (true, 6, false, false) := by decide

/-- V-EXT-3, V-EXT-2. -/
theorem test_extract_raises : brief (exec .extract (runningOn (payload41.drop 3) 11)) = some (true, 7, false, false) := by
  decide
theorem test_extract : runIs (exec .extract (runningOn payload41 11)) (fun r => r.x = regs41 && r.stage = 12) = true := by
  decide +kernel

/-- The full result of `S41`. -/
theorem test_mapE : runIs (exec .mapE { loaded [] with run := some { startRun frameS41 with x := regs41 } })
    (fun r => r.e.toList = [0x4471D2E1, 0x43F1D2F2, 0x436A9127, 0x00000000]) = true := by decide +kernel
theorem test_mapP : runIs (exec .mapP { loaded [] with run := some { startRun frameS41 with x := regs41 } })
    (fun r => r.p.toList = [0x44BB8000, 0x4B800000, 0x4B800002, 0x4F7FFFFF]) = true := by decide +kernel
theorem test_mapS : runIs (exec .mapS { loaded [] with run := some { startRun frameS41 with x := regs41 } })
    (fun r => r.s[3] = ⟨7, #v[0x32, 0x30, 0x30, 0x30, 0x30, 0x30, 0x30, 0, 0, 0]⟩) = true := by decide +kernel
theorem test_publish : brief (exec .publish (running ref 15)) = some (true, 0, false, true) := by decide +kernel

/-! ### Whole frames through one POLL -/

/-- Program PR1 (example E6): the reading. -/
theorem test_poll_ref : brief (exec (.poll 10000) (loaded ref)) = some (true, 0, false, true) ∧
    values (exec (.poll 10000) (loaded ref)) = some ([0x3F000000, 0x00000000, 0x43FA0000, 0x00000000],
      [0x44960000, 0x00000000, 0x43960000, 0x00000000],
      [[0x31, 0x30, 0x30, 0x30, 0x30, 0x35, 0x30, 0x30], [0x30], [0x35, 0x30, 0x30, 0x30, 0x30, 0x30], [0x30]]) := by
  decide +kernel

/-- V-DEC-1, V-EXC-4: no key; a bad CRC comes before it. -/
theorem test_poll_no_key : brief (exec (.poll 10000) (unkeyed ref)) = some (true, 8, false, false) ∧
    brief (exec (.poll 10000) (unkeyed (ref.set 40 0xC4))) = some (true, 5, false, false) := by decide +kernel

/-- V-VAL-9 to V-VAL-11: the order of the checks. -/
theorem test_poll_priority :
    brief (exec (.poll 10000) (loaded (((ref.set 1 0xA1).set 2 0x00).set 123 0x00))) = some (true, 2, false, false) ∧
    brief (exec (.poll 10000) (loaded ((ref.set 2 0x00).set 123 0x00))) = some (true, 3, false, false) ∧
    brief (exec (.poll 10000) (loaded ((ref.set 40 0xC4).set 123 0x00))) = some (true, 4, false, false) := by
  decide +kernel

/-- V-DEC-4, V-DEC-5: payloads of 40 and 0 bytes. -/
theorem test_poll_short_payloads : brief (exec (.poll 10000) (loaded frameS40)) = some (true, 6, false, false) ∧
    brief (exec (.poll 10000) (loaded frameS0)) = some (true, 6, false, false) := by decide +kernel

/-! ### Witnesses: for each statement with hypotheses, values that meet all of them (each clause at a boundary) -/

/-- A host command waiting with a whole frame in the buffer. -/
def waiting : State := { loaded ref with port := [.command 0x2645] }

/-- The nonce of section 0 (V-DEC-7). -/
def nonce : Vector Byte 16 :=
  #v[0x4B, 0x68, 0x75, 0x36, 0x86, 0x11, 0x22, 0x33, 0x00, 0x00, 0x12, 0x34, 0x00, 0x00, 0x00, 0x02]

/-- A run on `S41` before PUBLISH. -/
def publishing : State := { loaded [] with run := some { startRun frameS41 with
  stage := 15, NB := nonce, PB := payload41, x := regs41 } }

theorem witness_CommandOperandBits : ∀ k : Fin 8, ∃ w : CmdWord, w.toNat % 8 = k.val :=
  fun k => ⟨BitVec.ofNat 163 (2 ^ 163 - 8 + k.val), by revert k; decide⟩

theorem witness_UnusedCommandBitsIgnored : ∀ k : Fin 8, ∃ w w' : CmdWord, w ≠ w' ∧
    w.extractLsb' 0 3 = BitVec.ofNat 3 k.val ∧ w.extractLsb' 0 3 = w'.extractLsb' 0 3 ∧
    (k = 2 → w.extractLsb' 35 128 = w'.extractLsb' 35 128) ∧
    (k = 3 → w.extractLsb' 35 32 = w'.extractLsb' 35 32) ∧
    (k = 4 → w.extractLsb' 35 8 = w'.extractLsb' 35 8 ∧ w.extractLsb' 3 32 = w'.extractLsb' 3 32) ∧
    (k = 5 → w.extractLsb' 3 32 = w'.extractLsb' 3 32) :=
  fun k => ⟨BitVec.ofNat 163 k.val, BitVec.ofNat 163 (k.val + if k = 2 then 8 else 2 ^ 162), by revert k; decide⟩

theorem witness_StepRunsNextInstruction :
    (waiting.run = none ∧ waiting.port = [.command 0x2645]) ∧
    (publishing.run.isSome = true ∧ publishing.port.head? ≠ some .resetInput) ∧
    (State.reset.run = none ∧ State.reset.port = []) := by decide

theorem witness_PlacedWordIsRun : decodeTableWord 168 (2 ^ 163 - 1) = some .reserved7 ∧
    decodeTableWord 8 15 = some .publish := by decide

theorem witness_ResetInputActsAsReset :
    ({ publishing with port := [.resetInput] } : State).port = [.resetInput] := rfl

theorem witness_BlockInv_empty : BlockInv (loaded []) := by decide +kernel
theorem witness_BlockInv_full : BlockInv (loaded (List.replicate 258 0x55)) := by decide +kernel
theorem witness_BlockInv_opened : BlockInv (running [0x7E] 1) := by decide +kernel
theorem witness_BlockInv_valid_frame : BlockInv { loaded [] with run := some { startRun frameS0 with
    stage := 9, NB := nonce } } := by decide +kernel
theorem witness_BlockInv_publishing : BlockInv publishing := by decide +kernel

/-- StepKeepsInv, CodeSevenIsUnreachable. -/
theorem witness_StepKeepsInv : BlockInv (running [0x7E] 1) ∧ ∃ t, step (running [0x7E] 1) = .next t :=
  ⟨witness_BlockInv_opened, _, rfl⟩

/-- A POLL that flushes, at a silence of one more than the timeout, and one that does not, at the timeout. -/
theorem witness_CommandOutcomes : waiting.run = none ∧ waiting.port = [.command 0x2645] ∧
    decodeCmd 0x2645 = .poll 1224 ∧ Ref.flushes { waiting with last := 1123 } 1224 ∧ ¬ Ref.flushes { waiting with last := 1124 } 1224 := by
  decide +kernel

theorem witness_KeyloadEffect : State.reset.key_valid = false ∧ (loaded []).key_valid = true := by decide

theorem witness_AppendEffect : ({ State.reset with len := 257 } : State).len.val < 258 ∧
    appendIndex { State.reset with len := 257 } = some 257 ∧
    ({ State.reset with len := 258 } : State).len.val = 258 := by decide

/-- An empty buffer; a silence of exactly the timeout. -/
theorem witness_PollWithoutFrame : State.reset.len.val = 0 ∧
    ((223 : Time).toNat + 2 ^ 32 - (loaded ref).last.toNat) % 2 ^ 32 ≤ (loaded ref).idle_timeout.toNat := by decide

theorem witness_LargestTimeoutNeverFlushes :
    ({ loaded ref with idle_timeout := 0xFFFFFFFF } : State).idle_timeout.toNat = 2 ^ 32 - 1 := by decide

/-- PollDeliversFrameRecord and PollIsItsMicroSteps: a silence of one more than the timeout, with and without a key, on one
byte and on a full buffer; and a time that wrapped (V-SYN-8). -/
theorem witness_PollDeliversFrameRecord :
    Ref.flushes (loaded frameS0) 224 ∧ Ref.flushes (unkeyed [0x7E]) 224 ∧
    Ref.flushes { State.reset with len := 258, last := 0xFFFFFFF0 } 0x55 ∧
    Memory.readBytes (loaded frameS0).FB 0 (loaded frameS0).len.val = frameS0 := by decide +kernel
theorem witness_PollIsItsMicroSteps : Ref.flushes (loaded frameS0) 224 ∧
    (loaded frameS0).port.head? ≠ some .resetInput := by decide +kernel

/-- A rejected frame, and no frame. -/
theorem witness_ValidatorIgnoresTheKey :
    brief (exec (.poll 224) (loaded [0x7E])) = some (true, 1, false, false) ∧
    brief (exec (.poll 223) (loaded [0x7E])) = some (false, 0, false, false) := by decide +kernel

theorem witness_KeyIsWriteOnce : ∃ t, step { loaded [] with port := [.command 2] } = .next t ∧
    (loaded []).key_valid = true := ⟨_, rfl, by decide⟩

theorem witness_AppendsFillTheBufferInOrder : State.reset.len.val = 0 := rfl

/-- A stream of 259 bytes, and a silence of one more than the timeout. -/
theorem witness_SaturationIsUnobservable : State.reset.len.val = 0 ∧
    State.reset.idle_timeout.toNat < ((101 : Time).toNat + 2 ^ 32 - (0 : Time).toNat) % 2 ^ 32 ∧
    258 ≤ (List.replicate 258 ((0x55 : Byte), (0 : Time))).length := by decide +kernel

theorem witness_TickWithBytesNeverFlushes : (loaded ref).run = none := rfl

/-- ChkMinEffect to ChkCrcEffect, the clauses that pass: the shortest valid frame. -/
theorem witness_checks : ∃ r, (running frameS0 2).run = some r ∧
    33 ≤ r.B.length ∧ r.B[0]? = some 0x7E ∧ r.B[1]? = some 0xA0 ∧ r.B[2]? = some 0x1F ∧
    r.B.length = (0x1F : Byte).toNat + 2 ∧ r.B[r.B.length - 1]? = some 0x7E ∧
    r.B[r.B.length - 3]? = some 0x76 ∧ r.B[r.B.length - 2]? = some 0xBD ∧
    (crc16 ((r.B.drop 1).take (r.B.length - 5))).toNat = (0x76 : Byte).toNat + 256 * (0xBD : Byte).toNat :=
  ⟨_, rfl, by decide +kernel⟩
/-- The clauses that raise: 32 bytes, none of the checked ones right. -/
theorem witness_checks_fail : ∃ r, (running ([0x7F, 0xA0, 0x1E] ++ List.replicate 29 0x00) 2).run = some r ∧
    r.B.length < 33 ∧ r.B[0]? = some 0x7F ∧ r.B[2]? = some 0x1E ∧ r.B[r.B.length - 1]? = some 0x00 ∧
    (crc16 ((r.B.drop 1).take (r.B.length - 5))).toNat ≠ (0x00 : Byte).toNat + 256 * (0x00 : Byte).toNat :=
  ⟨_, rfl, by decide +kernel⟩
theorem witness_ChkLenEffect_fails : ∃ r, (running (frameS0.set 2 0x20) 3).run = some r ∧ r.B[2]? = some 0x20 ∧
    r.B.length ≠ (0x20 : Byte).toNat + 2 := ⟨_, rfl, by decide⟩

/-- ChkModelEffect, NonceEffect, LastCipherByteIsUncovered: the shortest runs. -/
theorem witness_ChkModelEffect : ∃ r, (running (ref.take 21) 6).run = some r ∧ 21 ≤ r.B.length :=
  ⟨_, rfl, by decide +kernel⟩
theorem witness_NonceEffect : ∃ r, (running (ref.take 30) 8).run = some r ∧ 30 ≤ r.B.length :=
  ⟨_, rfl, by decide +kernel⟩
theorem witness_LastCipherByteIsUncovered : ∃ r, (running frameS0 5).run = some r ∧ 33 ≤ r.B.length :=
  ⟨_, rfl, by decide⟩

theorem witness_ChkKeyEffect : ∃ r, (running ref 7).run = some r ∧ (running ref 7).key_valid = true ∧
    ({ running ref 7 with key_valid := false } : State).key_valid = false := ⟨_, rfl, rfl, rfl⟩

/-- CTR with a payload of 41 bytes, and with none. -/
theorem witness_CtrEffect : (∃ r, publishing.run = some r ∧ 33 ≤ r.B.length ∧ 0 < r.B.length - 33) ∧
    ∃ r, (running frameS0 9).run = some r ∧ r.B.length = 33 :=
  ⟨⟨_, rfl, by decide⟩, ⟨_, rfl, by decide⟩⟩

/-- IntegEffect, IntegNeedsFortyOneBytes: 41 bytes that pass, 40 that do not. -/
theorem witness_IntegEffect : markersOk payload41 = true ∧ markersOk (payload41.drop 1) = false ∧
    (payload41.drop 1).length < 41 := by decide +kernel
theorem witness_IntegNeedsFortyOneBytes : ∃ t r, exec .integ (runningOn payload41 10) = .next t ∧
    t.run = some r ∧ r.stage = 11 :=
  ⟨runningOn payload41 11, _, rfl, rfl, rfl⟩

/-- ExtractEffect: 38 bytes and 39. -/
theorem witness_ExtractEffect : (payload41.drop 3).length < 39 ∧ 39 ≤ (payload41.drop 2).length := by decide

/-- MapEEffect, MapPEffect, MapSEffect, PublishEffect. -/
theorem witness_maps : ∃ r, publishing.run = some r := ⟨_, rfl⟩

/-- ReadsOutsideBoundsFault, each clause at its largest length. -/
theorem witness_ReadsOutsideBoundsFault :
    exec .chkOpen (running [0x7E] 2) = .fault .outOfBounds ∧ exec .chkLen (running [0x7E, 0xA0] 3) = .fault .outOfBounds ∧
    exec .chkClose (running [] 4) = .fault .outOfBounds ∧ exec .chkCrc (running (ref.take 4) 5) = .fault .outOfBounds ∧
    exec .chkModel (running (ref.take 20) 6) = .fault .outOfBounds ∧
    exec .nonce (running (ref.take 29) 8) = .fault .outOfBounds ∧
    exec .ctr (running (ref.take 32) 9) = .fault .outOfBounds :=
  ⟨rfl, rfl, rfl, rfl, rfl, rfl, rfl⟩

theorem witness_MicroOpNeedsRun : Instr.publish.isStage = true ∧ Instr.publish ≠ .done ∧ State.reset.run = none := by decide

theorem witness_MicroOpFrame : Instr.publish.isStage = true ∧ ∃ t, exec .publish publishing = .next t := ⟨rfl, _, rfl⟩

theorem witness_CounterIsBigEndian : wordByte (0x00000002 : Word) 3 = 2 ∧ (13 : Nat) ≤ 13 := by decide

theorem witness_LittleEndianRead : [(0xC4 : Byte), 0x3E][0]? = some 0xC4 ∧ [(0xC4 : Byte), 0x3E][0 + 1]? = some 0x3E := by
  decide

/-- 1/1000, 999999/1000 and the largest register. -/
theorem witness_RoundsToNearestEven : (0 < 1 ∧ 0 < 1000 ∧ 1000 ≤ 1024 * 1 ∧ 1 < 2 ^ 33 * 1000) ∧
    (1000 ≤ 1024 * 999999 ∧ 999999 < 2 ^ 33 * 1000) ∧ (1 ≤ 1024 * (2 ^ 32 - 1) ∧ 2 ^ 32 - 1 < 2 ^ 33 * 1) := by decide

theorem witness_ChannelsInAscendingOrder : ResultRecord.empty.rd_valid = false ∧
    ∃ c, exec .publish publishing = .next c ∧ c.res.rd_valid = true := ⟨rfl, _, rfl, rfl⟩

/-- After the reset input; after a flush of a byte that is not 0. -/
theorem witness_CellsWithoutValueReadZero :
    ({ loaded ref with port := [.resetInput] } : State).port.head? = some .resetInput ∧
    Ref.flushes (loaded [0x7E]) 224 ∧ Memory.read (loaded [0x7E]).FB 0 ≠ 0 ∧ (loaded ref).KEY ≠ noKey := by decide +kernel

theorem witness_SboxIsAffineInverse : (0 : Byte) = 0 ∧ (0xFF : Byte) ≠ 0 ∧ sbox 0xFF = sbox 0xFF := by decide

theorem witness_KeyScheduleRecurrence : (4 ≤ 4 ∧ 4 ≤ 43) ∧ (4 ≤ 43 ∧ 43 ≤ 43) ∧ 4 % 4 = 0 ∧ 43 % 4 ≠ 0 := by decide

end Sys2Proof.Tests
end

/-! PROOFS, family 00_scope: what one step does (R6, R27), that it always goes on (R14), and the two views of a
flushing POLL (R125). The idea of all three: with 33 bytes in the snapshot from CHK_OPEN on, every
micro-operation either moves the sequencer one position up or ends the run with a record (`MicroStep`), so that a
run opened by a flush ends after at most sixteen of them (`MidRun`). -/

namespace Sys2Proof.Machine

/-! ### What a step runs -/

theorem step_of_resetInput {s : State} {rest : List HostEvent} (hport : s.port = .resetInput :: rest) :
    step s = .next (applyReset { s with port := rest }) := by
  simp [step, fetch, hport, resetInputStep]

theorem step_of_command {s : State} {w : CmdWord} {rest : List HostEvent} (hrun : s.run = none)
    (hport : s.port = .command w :: rest) : step s = exec (decodeCmd w) { s with port := rest } := by
  simp [step, fetch, hport, hrun]

theorem step_of_run {s : State} {r : Run} (hrun : s.run = some r) (hport : s.port.head? ≠ some .resetInput) :
    step s = exec (decodeStage r.stage) s := by
  match hp : s.port with
  | [] => simp [step, fetch, hp, hrun]
  | .command _ :: _ => simp [step, fetch, hp, hrun]
  | .resetInput :: _ => simp [hp] at hport

theorem step_of_idle {s : State} (hrun : s.run = none) (hport : s.port = []) : step s = .next (emitEmpty s) := by
  simp [step, fetch, hport, hrun, idleStep]

/-- Settles O5: the three cases of `fetch` without a reset input. -/
theorem stepRunsNextInstruction : Obligations.StepRunsNextInstruction :=
  ⟨fun _ _ _ => step_of_command, fun _ _ => step_of_run, fun _ => step_of_idle⟩

/-! ### What a micro-operation does -/

/-- The record that a flushed frame can end with: of an error of R240 or of a reading (R14). -/
def FrameVerdict (c : ResultRecord) : Prop :=
  (∃ x warn, c = rejectRecord (excCode x) warn) ∨ ∃ r, c = readingRecord r

/-- From CHK_OPEN on the snapshot is long enough for every read of the sequence (R57, R140). -/
def ReadsInBounds (r : Run) : Prop := 2 ≤ r.stage.toNat → 33 ≤ r.B.length

/-- What a micro-operation at position `c` makes of `s`: the sequencer moves one position up on a snapshot long
enough for all that follows, or the run ends with a record (R125, R243). -/
inductive MicroStep (s : State) (c : StageCode) : State → Prop where
  | moves (r : Run) (hlen : 33 ≤ r.B.length) (hstage : r.stage.toNat = c.toNat + 1) :
      MicroStep s c { s with run := some r }
  | ends (r : Run) (v : ResultRecord) (hstage : r.stage = stDone) (hv : FrameVerdict v) :
      MicroStep s c { s with run := some r, res := v }

/-- The micro-operation at position `c` goes on, as `MicroStep` says. -/
def Progresses (s : State) (c : StageCode) (o : Result) : Prop := ∃ t, o = .next t ∧ MicroStep s c t

theorem progresses_advance {s : State} {c next : StageCode} {r : Run} (hlen : 33 ≤ r.B.length)
    (hnext : next.toNat = c.toNat + 1) : Progresses s c (advance s r next) :=
  ⟨_, rfl, .moves _ hlen hnext⟩

theorem progresses_raise (s : State) (c : StageCode) (r : Run) (x : Exc) : Progresses s c (raise s r x) :=
  ⟨_, rfl, .ends _ _ rfl (.inl ⟨x, r.warn, rfl⟩)⟩

theorem progresses_raiseIf {s : State} {c next : StageCode} {r : Run} {b : Bool} {x : Exc}
    (hlen : b = false → 33 ≤ r.B.length) (hnext : next.toNat = c.toNat + 1) :
    Progresses s c (raiseIf b x s r next) := by
  cases b with
  | true => exact progresses_raise s c r x
  | false => exact progresses_advance (hlen rfl) hnext

theorem progresses_readSeq {α : Type} {s : State} {c : StageCode} {v : Option α} {a : α} {f : α → Result}
    (hv : v = some a) (hf : Progresses s c (f a)) : Progresses s c (readSeq v f) := by
  rwa [hv, readSeq_some]

section
variable {s : State} {r : Run} (hrun : s.run = some r)
include hrun

theorem execChkMin_progresses : Progresses s stChkMin (execChkMin s) := by
  rw [execChkMin, withRun_some _ _ _ hrun]
  exact progresses_raiseIf (fun h => Nat.not_lt.mp (of_decide_eq_false h)) rfl

variable (hlen : 33 ≤ r.B.length)
include hlen

theorem execChkOpen_progresses : Progresses s stChkOpen (execChkOpen s) := by
  rw [execChkOpen, withRun_some _ _ _ hrun]
  exact progresses_readSeq (List.getElem?_eq_getElem (by omega)) <|
    progresses_readSeq (List.getElem?_eq_getElem (by omega)) <| progresses_raiseIf (fun _ => hlen) rfl

theorem execChkLen_progresses : Progresses s stChkLen (execChkLen s) := by
  rw [execChkLen, withRun_some _ _ _ hrun]
  exact progresses_readSeq (List.getElem?_eq_getElem (by omega)) <| progresses_raiseIf (fun _ => hlen) rfl

theorem execChkClose_progresses : Progresses s stChkClose (execChkClose s) := by
  rw [execChkClose, withRun_some _ _ _ hrun, Run.n]
  exact progresses_readSeq (List.getElem?_eq_getElem (by omega)) <| progresses_raiseIf (fun _ => hlen) rfl

theorem execChkCrc_progresses : Progresses s stChkCrc (execChkCrc s) := by
  rw [execChkCrc, withRun_some _ _ _ hrun]
  exact progresses_readSeq (slice_of_le (by omega) (by omega)) <|
    progresses_readSeq (le16_of_lt (by omega)) <| progresses_raiseIf (fun _ => hlen) rfl

theorem execChkModel_progresses : Progresses s stChkModel (execChkModel s) := by
  rw [execChkModel, withRun_some _ _ _ hrun]
  exact progresses_readSeq (slice_of_le (by omega) (by omega)) <| progresses_advance hlen rfl

theorem execChkKey_progresses : Progresses s stChkKey (execChkKey s) := by
  rw [execChkKey, withRun_some _ _ _ hrun]
  exact progresses_raiseIf (fun _ => hlen) rfl

theorem execNonce_progresses : Progresses s stNonce (execNonce s) := by
  rw [execNonce, withRun_some _ _ _ hrun]
  obtain ⟨nb, hnb, -⟩ := nonceOf_some (B := r.B) (by omega)
  exact progresses_readSeq hnb <| progresses_advance hlen rfl

theorem execCtr_progresses : Progresses s stCtr (execCtr s) := by
  rw [execCtr, withRun_some _ _ _ hrun]
  exact progresses_readSeq (slice_of_le (by simp only [Config.hdrLen]; omega) (by omega)) <|
    progresses_advance hlen rfl

theorem execInteg_progresses : Progresses s stInteg (execInteg s) := by
  rw [execInteg, withRun_some _ _ _ hrun]
  exact progresses_raiseIf (fun _ => hlen) rfl

theorem execExtract_progresses : Progresses s stExtract (execExtract s) := by
  rw [execExtract, withRun_some _ _ _ hrun]
  cases extractRegs r.PB with
  | some x => exact progresses_advance hlen rfl
  | none => exact progresses_raise s _ r _

theorem execMapE_progresses : Progresses s stMapE (execMapE s) := by
  rw [execMapE, withRun_some _ _ _ hrun]
  exact progresses_advance hlen rfl

theorem execMapP_progresses : Progresses s stMapP (execMapP s) := by
  rw [execMapP, withRun_some _ _ _ hrun]
  exact progresses_advance hlen rfl

theorem execMapS_progresses : Progresses s stMapS (execMapS s) := by
  rw [execMapS, withRun_some _ _ _ hrun]
  exact progresses_advance hlen rfl

omit hlen in
theorem execPublish_progresses : Progresses s stPublish (execPublish s) := by
  rw [execPublish, withRun_some _ _ _ hrun]
  exact ⟨_, rfl, .ends _ _ rfl (.inr ⟨r, rfl⟩)⟩

end

/-- The fifteen positions other than DONE, one by one. -/
theorem microOp_progresses {s : State} {r : Run} (hrun : s.run = some r) (hreads : ReadsInBounds r)
    (hstage : r.stage ≠ stDone) : Progresses s r.stage (microOp r.stage s) := by
  have positions : ∀ n : Fin 16, n ≠ 0 → (2 ≤ n.val → 33 ≤ r.B.length) →
      Progresses s (BitVec.ofFin n) (microOp (BitVec.ofFin n) s) := by
    intro n hn hlen
    fin_cases n
    · exact absurd rfl hn
    · exact execChkMin_progresses hrun
    · exact execChkOpen_progresses hrun (hlen (by decide))
    · exact execChkLen_progresses hrun (hlen (by decide))
    · exact execChkClose_progresses hrun (hlen (by decide))
    · exact execChkCrc_progresses hrun (hlen (by decide))
    · exact execChkModel_progresses hrun (hlen (by decide))
    · exact execChkKey_progresses hrun (hlen (by decide))
    · exact execNonce_progresses hrun (hlen (by decide))
    · exact execCtr_progresses hrun (hlen (by decide))
    · exact execInteg_progresses hrun (hlen (by decide))
    · exact execExtract_progresses hrun (hlen (by decide))
    · exact execMapE_progresses hrun (hlen (by decide))
    · exact execMapP_progresses hrun (hlen (by decide))
    · exact execMapS_progresses hrun (hlen (by decide))
    · exact execPublish_progresses hrun
  exact positions r.stage.toFin (fun h => hstage (BitVec.eq_of_toFin_eq h)) hreads

theorem microOp_done (s : State) : microOp stDone s = .next { s with run := none } := rfl

/-- No micro-operation on a run whose reads are in bounds faults or is refused. -/
theorem microOp_goesOn {s : State} {r : Run} (hrun : s.run = some r) (hreads : ReadsInBounds r) :
    goesOn (microOp r.stage s) := by
  by_cases hstage : r.stage = stDone
  · exact ⟨_, by rw [hstage, microOp_done]⟩
  · obtain ⟨t, ht, -⟩ := microOp_progresses hrun hreads hstage
    exact ⟨t, ht⟩

/-! ### The run of a flushing POLL -/

/-- The micro-operations that are left of a run at position `c`, DONE among them. -/
def opsLeft (c : StageCode) : Nat := if c = stDone then 1 else 17 - c.toNat

/-- A run is in progress that ends after at most `k` micro-operations; at DONE its record is there. -/
structure MidRun (k : Nat) (s : State) (r : Run) : Prop where
  run_eq : s.run = some r
  reads : ReadsInBounds r
  left : opsLeft r.stage ≤ k
  verdict : r.stage = stDone → FrameVerdict s.res

theorem opsLeft_done : opsLeft stDone = 1 := rfl

theorem opsLeft_of_ne {c : StageCode} (h : c ≠ stDone) : opsLeft c = 17 - c.toNat := if_neg h

theorem opsLeft_pos (c : StageCode) : 0 < opsLeft c := by
  revert c
  decide

theorem not_midRun_zero {s : State} {r : Run} : ¬ MidRun 0 s r :=
  fun h => Nat.not_lt.mpr h.left (opsLeft_pos r.stage)

theorem midRun_openRun (s : State) (B : List Byte) : MidRun runLength (openRun s B) (startRun B) where
  run_eq := rfl
  reads := fun h => absurd h (show ¬ 2 ≤ stChkMin.toNat by decide)
  left := show opsLeft stChkMin ≤ runLength by decide
  verdict := fun h => absurd h (show stChkMin ≠ stDone by decide)

/-- One micro-operation of a run: it ends the run with its record in place, or one fewer is left. -/
theorem midRun_microOp {k : Nat} {s : State} {r : Run} (h : MidRun (k + 1) s r) :
    ∃ t, microOp r.stage s = .next t ∧ t.port = s.port ∧
      ((t.run = none ∧ FrameVerdict t.res) ∨ ∃ r', MidRun k t r') := by
  obtain ⟨hrun, hreads, hleft, hverdict⟩ := h
  by_cases hstage : r.stage = stDone
  · exact ⟨{ s with run := none }, by rw [hstage, microOp_done], rfl, .inl ⟨rfl, hverdict hstage⟩⟩
  · rw [opsLeft_of_ne hstage] at hleft
    have hlt := r.stage.isLt
    obtain ⟨t, ht, hstep⟩ := microOp_progresses hrun hreads hstage
    refine ⟨t, ht, ?_⟩
    cases hstep with
    | moves r' hlen hnext =>
      have hne : r'.stage ≠ stDone := fun h0 => by simp [h0, stDone] at hnext
      refine ⟨rfl, .inr ⟨r', rfl, fun _ => hlen, ?_, fun h0 => absurd h0 hne⟩⟩
      rw [opsLeft_of_ne hne]
      omega
    | ends r' v hdone hv =>
      refine ⟨rfl, .inr ⟨r', rfl, fun h2 => ?_, ?_, fun _ => hv⟩⟩
      · simp [hdone, stDone] at h2
      · rw [hdone, opsLeft_done]
        omega

/-- A run ends with its record at the port and the host events as they were. -/
theorem midRun_runToDone {k : Nat} {s : State} {r : Run} (h : MidRun k s r) :
    ∃ t, runToDone k s = .next t ∧ t.run = none ∧ t.port = s.port ∧ FrameVerdict t.res := by
  induction k generalizing s r with
  | zero => exact absurd h not_midRun_zero
  | succ k ih =>
    obtain ⟨t, ht, hport, hnext⟩ := midRun_microOp h
    rw [runToDone_succ k s t r h.run_eq ht]
    obtain ⟨hended, hv⟩ | ⟨r', h'⟩ := hnext
    · exact ⟨t, runToDone_ended k t hended, hended, hport, hv⟩
    · obtain ⟨u, hu, hrun, hp, hv⟩ := ih h'
      exact ⟨u, hu, hrun, hp.trans hport, hv⟩

/-- With no reset input waiting, the steps of the machine are the micro-operations of the run. -/
theorem midRun_core_run {k : Nat} {s : State} {r : Run} (h : MidRun k s r)
    (hport : s.port.head? ≠ some .resetInput) :
    ∃ m, m ≤ k ∧ core.run m s = runToDone k s ∧
      ∀ j, j < m → ∃ t, core.run j s = .next t ∧ t.run.isSome = true := by
  induction k generalizing s r with
  | zero => exact absurd h not_midRun_zero
  | succ k ih =>
    obtain ⟨t, ht, hsame, hnext⟩ := midRun_microOp h
    have hstep : step s = .next t := by rw [step_of_run h.run_eq hport, ← microOp_eq_exec, ht]
    have hbefore : ∃ u, core.run 0 s = .next u ∧ u.run.isSome = true := ⟨s, rfl, by rw [h.run_eq]; rfl⟩
    rw [runToDone_succ k s t r h.run_eq ht]
    obtain ⟨hended, -⟩ | ⟨r', h'⟩ := hnext
    · refine ⟨1, by omega, (core_run_succ 0 hstep).trans (runToDone_ended k t hended).symm, fun i hi => ?_⟩
      obtain rfl := Nat.lt_one_iff.mp hi
      exact hbefore
    · obtain ⟨m, hm, heq, hall⟩ := ih h' (hsame ▸ hport)
      refine ⟨m + 1, by omega, by rw [core_run_succ m hstep, heq], fun i hi => ?_⟩
      cases i with
      | zero => exact hbefore
      | succ i =>
        rw [core_run_succ i hstep]
        exact hall i (by omega)

/-! ### The host commands -/

theorem frameComplete_iff_flushes (s : State) (now : Time) : frameComplete s now = true ↔ Ref.flushes s now := by
  rw [frameComplete_iff, lt_sub32_iff]

theorem execPoll_of_flushes {s : State} {now : Time} (h : Ref.flushes s now) :
    execPoll now s = runFrame s (Memory.readBytes s.FB 0 s.len.val) := by
  rw [execPoll, if_pos ((frameComplete_iff_flushes s now).mpr h)]

theorem execPoll_of_not_flushes {s : State} {now : Time} (h : ¬ Ref.flushes s now) :
    execPoll now s = .next (emitEmpty s) := by
  rw [execPoll, if_neg (mt (frameComplete_iff_flushes s now).mp h)]

theorem runFrame_verdict (s : State) (B : List Byte) :
    ∃ t, runFrame s B = .next t ∧ t.run = none ∧ t.port = s.port ∧ FrameVerdict t.res :=
  midRun_runToDone (midRun_openRun s B)

/-- The instruction answers a state without a run, with the host events left as they are and the empty record. -/
def AnswersEmpty (i : Instr) (s : State) : Prop :=
  ∃ t, exec i s = .next t ∧ t.run = none ∧ t.port = s.port ∧ t.res = ResultRecord.empty

theorem execKeyload_answersEmpty (k : Vector Byte 16) {s : State} (hrun : s.run = none) :
    AnswersEmpty (.keyload k) s := by
  simp only [AnswersEmpty, exec, execKeyload]
  split
  · exact ⟨_, rfl, hrun, rfl, rfl⟩
  · exact ⟨_, rfl, hrun, rfl, rfl⟩

theorem execAppend_answersEmpty (b : Byte) (now : Time) {s : State} (hrun : s.run = none) :
    AnswersEmpty (.append b now) s := by
  by_cases hlen : s.len.val < 258
  · obtain ⟨t, ht, -, -, -, -, -, -, hr, hres, hport⟩ := execAppend_stores b now hlen
    exact ⟨t, ht, hr.trans hrun, hport, hres⟩
  · exact ⟨_, execAppend_drops b now (by omega), hrun, rfl, rfl⟩

/-- Every command word but that of a POLL that flushes gives the empty record (R14, R84, R120 to R124). -/
theorem command_answersEmpty {i : Instr} {s : State} (hcmd : i.isStage = false) (hrun : s.run = none)
    (hpoll : ∀ now, i = .poll now → ¬ Ref.flushes s now) : AnswersEmpty i s := by
  cases i with
  | reset => exact ⟨_, rfl, rfl, rfl, rfl⟩
  | keyload k => exact execKeyload_answersEmpty k hrun
  | setto u => exact ⟨_, rfl, hrun, rfl, rfl⟩
  | append b now => exact execAppend_answersEmpty b now hrun
  | poll now => exact ⟨_, execPoll_of_not_flushes (hpoll now rfl), hrun, rfl, rfl⟩
  | reserved0 | reserved6 | reserved7 => exact ⟨_, rfl, hrun, rfl, rfl⟩
  | _ => cases hcmd

theorem excCode_bounds (x : Exc) : 1 ≤ (excCode x).toNat ∧ (excCode x).toNat ≤ 8 := by
  cases x <;> decide

/-- The two outcomes of R14 for a flushed frame: REJECT with a code from 1 to 8, and READING. -/
theorem frameVerdict_outcomes {c : ResultRecord} (h : FrameVerdict c) : c.res_valid = true ∧
    ((1 ≤ c.res_code.toNat ∧ c.res_code.toNat ≤ 8 ∧ c = rejectRecord c.res_code c.res_warn) ∨
      (c.res_code = 0 ∧ c.rd_valid = true)) := by
  obtain ⟨x, warn, rfl⟩ | ⟨r, rfl⟩ := h
  · obtain ⟨h1, h8⟩ := excCode_bounds x
    exact ⟨rfl, .inl ⟨h1, h8, rfl⟩⟩
  · exact ⟨rfl, .inr ⟨rfl, rfl⟩⟩

/-! ### The statements -/

/-- Settles O11: a POLL that flushes ends its run with a verdict on the frame, every other command word gives the
empty record. -/
theorem commandOutcomes : Obligations.CommandOutcomes := by
  intro s w rest hrun hport
  rw [step_of_command hrun hport]
  by_cases hflush : ∃ now, decodeCmd w = .poll now ∧ Ref.flushes s now
  · obtain ⟨now, hpoll, hfl⟩ := hflush
    have hexec := execPoll_of_flushes (s := { s with port := rest }) hfl
    obtain ⟨t, ht, htrun, htport, hv⟩ :=
      runFrame_verdict { s with port := rest } (Memory.readBytes s.FB 0 s.len.val)
    exact ⟨t, by rw [hpoll]; exact hexec.trans ht, htrun, htport,
      .inr ⟨now, hpoll, hfl, frameVerdict_outcomes hv⟩⟩
  · have hnot : ∀ now, decodeCmd w = .poll now → ¬ Ref.flushes s now :=
      fun now hpoll hfl => hflush ⟨now, hpoll, hfl⟩
    obtain ⟨t, ht, htrun, htport, hres⟩ :=
      command_answersEmpty (s := { s with port := rest }) (decodeCmd_isStage w) hrun hnot
    exact ⟨t, ht, htrun, htport, .inl ⟨hnot, hres⟩⟩

/-- What the invariant says of a run in progress includes that its reads are in bounds. -/
theorem BlockInv.readsInBounds {s : State} {r : Run} (h : BlockInv s) (hrun : s.run = some r) : ReadsInBounds r := by
  obtain ⟨-, -, hruns, -⟩ := h
  obtain ⟨-, -, hlen, -⟩ := (runOk_iff _ _).mp (hruns r hrun)
  exact hlen

/-- Settles O8: a reset input, an idle step and a host command always go on, a micro-operation does because the
invariant keeps its reads in bounds. -/
theorem stepAlwaysGoesOn : Obligations.StepAlwaysGoesOn := by
  intro s hinv
  by_cases hreset : s.port.head? = some .resetInput
  · obtain ⟨rest, hport⟩ := List.head?_eq_some_iff.mp hreset
    exact ⟨_, step_of_resetInput hport⟩
  match hrun : s.run, hport : s.port with
  | some r, _ =>
    rw [step_of_run hrun hreset, ← microOp_eq_exec]
    exact microOp_goesOn hrun (hinv.readsInBounds hrun)
  | none, [] => exact ⟨_, step_of_idle hrun hport⟩
  | none, .command w :: rest =>
    obtain ⟨t, ht, -⟩ := commandOutcomes s w rest hrun hport
    exact ⟨t, ht⟩
  | none, .resetInput :: rest => exact absurd (by rw [hport]; rfl) hreset

/-- Settles O22: the run opened by the flush ends after at most sixteen micro-operations, each of them a step. -/
theorem pollIsItsMicroSteps : Obligations.PollIsItsMicroSteps := by
  intro now s hflush hport
  obtain ⟨k, hk, heq, hall⟩ := midRun_core_run (midRun_openRun s (Memory.readBytes s.FB 0 s.len.val)) hport
  exact ⟨k, hk, heq.trans (execPoll_of_flushes hflush).symm, hall⟩

end Sys2Proof.Machine

/-! PROOFS, family 10_state: the invariant of the block (R20 to R30), what a micro-operation leaves alone (R24, R59), and
that a loaded key stays (R23). What a micro-operation can do is said once (`MicroEffect`), for every position and every
run; the frame, the write-once key and the invariant are read off it. -/

namespace Sys2Proof.Machine

/-! ### The reset state, DONE, and micro-operations without a run -/

/-- Settles O10: the buffer is empty, KEY has the filler, no run is in progress and the record is empty. -/
theorem resetMeetsInv : Obligations.ResetMeetsInv :=
  ⟨⟨Memory.wf_empty, by simp [Memory.empty]⟩, fun _ => rfl, by simp, (recordOk_iff _).mpr recordOk_empty⟩

/-- Settles O12: the fields of `State.reset`. -/
theorem resetStateValues : Obligations.ResetStateValues := ⟨rfl, rfl, rfl, rfl, rfl, rfl⟩

/-- Settles O44: the meaning of DONE. -/
theorem doneEffect : Obligations.DoneEffect := ⟨rfl, fun _ => rfl⟩

/-- Settles O46: the meaning of each of the fifteen is an operation on the run in progress. -/
theorem microOpNeedsRun : Obligations.MicroOpNeedsRun := by
  intro i s hstage hdone hrun
  cases i with
  | reset | keyload _ | setto _ | append _ _ | poll _ | reserved0 | reserved6 | reserved7 => cases hstage
  | done => exact absurd rfl hdone
  | chkMin | chkOpen | chkLen | chkClose | chkCrc | chkModel | chkKey | nonce | ctr | integ | extract | mapE | mapP
  | mapS | publish => exact withRun_none s _ hrun

/-! ### What a micro-operation can do -/

/-- What the check or the write at position `k` has established of a run that it let pass (R140 to R143, R163, R171,
R172, R174, R175); the positions not listed establish nothing that a later one relies on. -/
def Passed (key_valid : Bool) (r : Run) (k : Nat) : Prop :=
  match k with
  | 1 => Config.minFrameLen ≤ r.n
  | 2 => r.B[0]? = some flagOpen ∧ r.B[1]? = some fmtByte
  | 3 => r.B[2]?.map declaredLen = some r.n
  | 4 => r.B[r.n - 1]? = some flagClose
  | 5 => (crcRange r.B).map crc16 = storedCrc r.B
  | 7 => key_valid = true
  | 8 => nonceOf r.B = some r.NB
  | 9 => r.L = r.n - Config.overhead
  | 10 => markersOk r.PB = true
  | _ => True

/-- The position at which each error is raised (R240), and for the last check of the payload the reason. -/
def RaisedAt (c : StageCode) (r : Run) : Exc → Prop
  | .tooShort => c = stChkMin
  | .badOpeningMarker => c = stChkOpen
  | .lengthMismatch => c = stChkLen
  | .badClosingMarker => c = stChkClose
  | .crcMismatch => c = stChkCrc
  | .keyNotLoaded => c = stChkKey
  | .integrityCheckFailed => c = stInteg
  | .extractionOutOfBounds => c = stExtract ∧ extractRegs r.PB = none

/-- The data of the run that the micro-operation at position `c` leaves as they are (R59, R212, R224). -/
structure RunFrame (c : StageCode) (r r' : Run) : Prop where
  B : r'.B = r.B
  warn : c ≠ stChkModel → r'.warn = r.warn
  NB : c ≠ stNonce → r'.NB = r.NB
  PB : c ≠ stCtr → r'.PB = r.PB
  x : c ≠ stExtract → r'.x = r.x
  e : c ≠ stMapE → r'.e = r.e
  p : c ≠ stMapP → r'.p = r.p
  s : c ≠ stMapS → r'.s = r.s

/-- What the micro-operation at position `c` makes of a state `s` with the run `r`, at whatever position that run
stands. -/
inductive MicroEffect (c : StageCode) (s : State) (r : Run) : State → Prop where
  | ends (hc : c = stDone) : MicroEffect c s r { s with run := none }
  | advances (r' : Run) (hstage : r'.stage.toNat = c.toNat + 1) (hcode : r'.code = r.code)
      (hframe : RunFrame c r r') (hpassed : Passed s.key_valid r' c.toNat) :
      MicroEffect c s r { s with run := some r' }
  | raises (x : Exc) (hx : RaisedAt c r x) :
      MicroEffect c s r
        { s with run := some { r with code := excCode x, stage := stDone }, res := rejectRecord (excCode x) r.warn }
  | publishes (hc : c = stPublish) :
      MicroEffect c s r { s with run := some { r with code := 0, stage := stDone }, res := readingRecord r }

/-- If the micro-operation at position `c` goes on, it does so as `MicroEffect` says. -/
def HasEffect (c : StageCode) (s : State) (r : Run) (o : Result) : Prop := ∀ t, o = .next t → MicroEffect c s r t

theorem RunFrame.of_code_stage (c : StageCode) (r : Run) (k : ResCode) (d : StageCode) :
    RunFrame c r { r with code := k, stage := d } :=
  ⟨rfl, fun _ => rfl, fun _ => rfl, fun _ => rfl, fun _ => rfl, fun _ => rfl, fun _ => rfl, fun _ => rfl⟩

theorem hasEffect_readSeq {α : Type} {c : StageCode} {s : State} {r : Run} {v : Option α} {f : α → Result}
    (hf : ∀ a, v = some a → HasEffect c s r (f a)) : HasEffect c s r (readSeq v f) := by
  intro t ht
  obtain ⟨a, hv, ha⟩ := readSeq_next ht
  exact hf a hv t ha

theorem hasEffect_advance {c next : StageCode} {s : State} {r r' : Run} (hnext : next.toNat = c.toNat + 1)
    (hcode : r'.code = r.code) (hframe : RunFrame c r { r' with stage := next })
    (hpassed : Passed s.key_valid { r' with stage := next } c.toNat) : HasEffect c s r (advance s r' next) := by
  intro t ht
  rw [advance_next ht]
  exact .advances _ hnext hcode hframe hpassed

theorem hasEffect_raise {c : StageCode} {s : State} {r : Run} {x : Exc} (hx : RaisedAt c r x) :
    HasEffect c s r (raise s r x) := by
  intro t ht
  rw [raise_next ht]
  exact .raises x hx

theorem hasEffect_raiseIf {c next : StageCode} {s : State} {r : Run} {b : Bool} {x : Exc} (hx : RaisedAt c r x)
    (hnext : next.toNat = c.toNat + 1) (hpassed : b = false → Passed s.key_valid { r with stage := next } c.toNat) :
    HasEffect c s r (raiseIf b x s r next) := by
  cases b with
  | true => exact hasEffect_raise hx
  | false => exact hasEffect_advance hnext rfl (.of_code_stage c r r.code next) (hpassed rfl)

/-- CTR makes the payload as long as the ciphertext (R174). -/
theorem ctrCrypt_length (key nb : AesBlock) (C : List Byte) : (ctrCrypt key nb C).length = C.length := by
  refine xorBytes_length C _ ?_
  rw [keystreamFrom_length, blockCount]
  omega

/-- The ciphertext is the snapshot without its overhead (R88). -/
theorem ciphertext_length {B C : List Byte} (h : ciphertext B = some C) : C.length = B.length - Config.overhead := by
  rw [slice_length h, Config.hdrLen, Config.overhead]
  omega

section
variable {s : State} {r : Run} (hrun : s.run = some r)
include hrun

theorem execChkMin_hasEffect : HasEffect stChkMin s r (execChkMin s) := by
  rw [execChkMin, withRun_some _ _ _ hrun]
  exact hasEffect_raiseIf rfl rfl fun h => Nat.not_lt.mp (of_decide_eq_false h)

theorem execChkOpen_hasEffect : HasEffect stChkOpen s r (execChkOpen s) := by
  rw [execChkOpen, withRun_some _ _ _ hrun]
  refine hasEffect_readSeq fun b0 h0 => hasEffect_readSeq fun b1 h1 => hasEffect_raiseIf rfl rfl fun h => ?_
  obtain ⟨rfl, rfl⟩ : b0 = flagOpen ∧ b1 = fmtByte := by simpa using h
  exact ⟨h0, h1⟩

theorem execChkLen_hasEffect : HasEffect stChkLen s r (execChkLen s) := by
  rw [execChkLen, withRun_some _ _ _ hrun]
  refine hasEffect_readSeq fun b2 h2 => hasEffect_raiseIf rfl rfl fun h => ?_
  have hn : r.n = declaredLen b2 := by simpa using h
  show r.B[2]?.map declaredLen = some r.n
  rw [h2, hn, Option.map_some]

theorem execChkClose_hasEffect : HasEffect stChkClose s r (execChkClose s) := by
  rw [execChkClose, withRun_some _ _ _ hrun]
  refine hasEffect_readSeq fun b hb => hasEffect_raiseIf rfl rfl fun h => ?_
  obtain rfl : b = flagClose := by simpa using h
  exact hb

theorem execChkCrc_hasEffect : HasEffect stChkCrc s r (execChkCrc s) := by
  rw [execChkCrc, withRun_some _ _ _ hrun]
  refine hasEffect_readSeq fun D hD => hasEffect_readSeq fun fcs hfcs => hasEffect_raiseIf rfl rfl fun h => ?_
  have hcrc : crc16 D = fcs := by simpa using h
  show (crcRange r.B).map crc16 = storedCrc r.B
  rw [hD, hfcs, Option.map_some, hcrc]

theorem execChkModel_hasEffect : HasEffect stChkModel s r (execChkModel s) := by
  rw [execChkModel, withRun_some _ _ _ hrun]
  refine hasEffect_readSeq fun m _ => hasEffect_advance rfl rfl ?_ trivial
  constructor <;> simp

theorem execChkKey_hasEffect : HasEffect stChkKey s r (execChkKey s) := by
  rw [execChkKey, withRun_some _ _ _ hrun]
  refine hasEffect_raiseIf rfl rfl fun h => ?_
  show s.key_valid = true
  simpa using h

theorem execNonce_hasEffect : HasEffect stNonce s r (execNonce s) := by
  rw [execNonce, withRun_some _ _ _ hrun]
  refine hasEffect_readSeq fun nb hnb => hasEffect_advance rfl rfl ?_ hnb
  constructor <;> simp

theorem execCtr_hasEffect : HasEffect stCtr s r (execCtr s) := by
  rw [execCtr, withRun_some _ _ _ hrun]
  refine hasEffect_readSeq fun C hC => hasEffect_advance rfl rfl ?_ ((ctrCrypt_length _ _ C).trans (ciphertext_length hC))
  constructor <;> simp

theorem execInteg_hasEffect : HasEffect stInteg s r (execInteg s) := by
  rw [execInteg, withRun_some _ _ _ hrun]
  refine hasEffect_raiseIf rfl rfl fun h => ?_
  show markersOk r.PB = true
  simpa using h

theorem execExtract_hasEffect : HasEffect stExtract s r (execExtract s) := by
  rw [execExtract, withRun_some _ _ _ hrun]
  cases hx : extractRegs r.PB with
  | some x =>
    refine hasEffect_advance rfl rfl ?_ trivial
    constructor <;> simp
  | none => exact hasEffect_raise ⟨rfl, hx⟩

theorem execMapE_hasEffect : HasEffect stMapE s r (execMapE s) := by
  rw [execMapE, withRun_some _ _ _ hrun]
  refine hasEffect_advance rfl rfl ?_ trivial
  constructor <;> simp

theorem execMapP_hasEffect : HasEffect stMapP s r (execMapP s) := by
  rw [execMapP, withRun_some _ _ _ hrun]
  refine hasEffect_advance rfl rfl ?_ trivial
  constructor <;> simp

theorem execMapS_hasEffect : HasEffect stMapS s r (execMapS s) := by
  rw [execMapS, withRun_some _ _ _ hrun]
  refine hasEffect_advance rfl rfl ?_ trivial
  constructor <;> simp

theorem execPublish_hasEffect : HasEffect stPublish s r (execPublish s) := by
  rw [execPublish, withRun_some _ _ _ hrun]
  rintro t ⟨⟩
  exact .publishes rfl

omit hrun in
theorem execDone_hasEffect : HasEffect stDone s r (execDone s) := by
  rintro t ⟨⟩
  exact .ends rfl

/-- The sixteen positions, one by one. -/
theorem microOp_hasEffect (c : StageCode) : HasEffect c s r (microOp c s) := by
  have positions : ∀ n : Fin 16, HasEffect (BitVec.ofFin n) s r (microOp (BitVec.ofFin n) s) := by
    intro n
    fin_cases n
    · exact execDone_hasEffect
    · exact execChkMin_hasEffect hrun
    · exact execChkOpen_hasEffect hrun
    · exact execChkLen_hasEffect hrun
    · exact execChkClose_hasEffect hrun
    · exact execChkCrc_hasEffect hrun
    · exact execChkModel_hasEffect hrun
    · exact execChkKey_hasEffect hrun
    · exact execNonce_hasEffect hrun
    · exact execCtr_hasEffect hrun
    · exact execInteg_hasEffect hrun
    · exact execExtract_hasEffect hrun
    · exact execMapE_hasEffect hrun
    · exact execMapP_hasEffect hrun
    · exact execMapS_hasEffect hrun
    · exact execPublish_hasEffect hrun
  exact positions c.toFin

end

/-! ### The frame of a micro-operation -/

/-- Every micro-operation is what some sequencer position selects (R105). -/
theorem exists_decodeStage_eq {i : Instr} (h : i.isStage = true) : ∃ c, decodeStage c = i := by
  cases i with
  | reset | keyload _ | setto _ | append _ _ | poll _ | reserved0 | reserved6 | reserved7 => cases h
  | done => exact ⟨stDone, rfl⟩
  | chkMin => exact ⟨stChkMin, rfl⟩
  | chkOpen => exact ⟨stChkOpen, rfl⟩
  | chkLen => exact ⟨stChkLen, rfl⟩
  | chkClose => exact ⟨stChkClose, rfl⟩
  | chkCrc => exact ⟨stChkCrc, rfl⟩
  | chkModel => exact ⟨stChkModel, rfl⟩
  | chkKey => exact ⟨stChkKey, rfl⟩
  | nonce => exact ⟨stNonce, rfl⟩
  | ctr => exact ⟨stCtr, rfl⟩
  | integ => exact ⟨stInteg, rfl⟩
  | extract => exact ⟨stExtract, rfl⟩
  | mapE => exact ⟨stMapE, rfl⟩
  | mapP => exact ⟨stMapP, rfl⟩
  | mapS => exact ⟨stMapS, rfl⟩
  | publish => exact ⟨stPublish, rfl⟩

/-- The persistent state of R20 to R23 and the host events are the same in both states. -/
def SamePersistent (s t : State) : Prop :=
  t.FB = s.FB ∧ t.len = s.len ∧ t.last = s.last ∧ t.idle_timeout = s.idle_timeout ∧ t.KEY = s.KEY ∧
  t.key_valid = s.key_valid ∧ t.port = s.port

theorem samePersistent_run_res (s : State) (run : Option Run) (res : ResultRecord) :
    SamePersistent s { s with run := run, res := res } := ⟨rfl, rfl, rfl, rfl, rfl, rfl, rfl⟩

section
variable {c : StageCode} {s t : State} {r : Run} (h : MicroEffect c s r t)
include h

theorem MicroEffect.samePersistent : SamePersistent s t := by
  cases h with
  | ends => exact samePersistent_run_res s _ s.res
  | advances => exact samePersistent_run_res s _ s.res
  | raises => exact samePersistent_run_res s _ _
  | publishes => exact samePersistent_run_res s _ _

theorem MicroEffect.runFrame {r' : Run} (hrun : t.run = some r') : RunFrame c r r' := by
  cases h with
  | ends => cases hrun
  | advances r'' _ _ hframe => cases hrun; exact hframe
  | raises => cases hrun; exact .of_code_stage c r _ _
  | publishes => cases hrun; exact .of_code_stage c r _ _

theorem MicroEffect.res_eq (hc : c ≠ stPublish) : t.res = s.res ∨ ∃ k, t.res = rejectRecord k r.warn := by
  cases h with
  | ends => exact .inl rfl
  | advances => exact .inl rfl
  | raises x => exact .inr ⟨excCode x, rfl⟩
  | publishes h15 => exact absurd h15 hc

end

/-- Settles O47: with a run in progress the three parts are read off `MicroEffect`; without one only DONE goes on. -/
theorem microOpFrame : Obligations.MicroOpFrame := by
  intro i s t hstage hexec
  cases hrun : s.run with
  | none =>
    by_cases hdone : i = .done
    · subst hdone
      cases hexec
      exact ⟨rfl, rfl, rfl, rfl, rfl, rfl, rfl, nofun, fun _ => .inl rfl⟩
    · rw [microOpNeedsRun i s hstage hdone hrun] at hexec
      cases hexec
  | some r =>
    obtain ⟨c, rfl⟩ := exists_decodeStage_eq hstage
    have heff : MicroEffect c s r t := microOp_hasEffect hrun c t ((microOp_eq_exec c s).trans hexec)
    have hne : ∀ {d : StageCode}, decodeStage c ≠ decodeStage d → c ≠ d := fun h hcd => h (congrArg decodeStage hcd)
    obtain ⟨hFB, hlen, hlast, hidle, hKEY, hkv, hport⟩ := heff.samePersistent
    refine ⟨hFB, hlen, hlast, hidle, hKEY, hkv, hport, fun r₁ r' hr₁ hr' => ?_, fun hi => ?_⟩
    · cases hr₁
      have hf := heff.runFrame hr'
      exact ⟨hf.B, fun hi => hf.warn (hne hi), fun hi => hf.NB (hne hi), fun hi => hf.PB (hne hi),
        fun hi => hf.x (hne hi), fun hi => hf.e (hne hi), fun hi => hf.p (hne hi), fun hi => hf.s (hne hi)⟩
    · exact (heff.res_eq (hne hi)).imp id fun ⟨k, hk⟩ => ⟨k, r, rfl, hk⟩

/-! ### What a step can do -/

/-- The four cases of a step: the reset input, the micro-operation of a run in progress, nothing waiting, a host
command. -/
theorem step_cases (s : State) :
    (∃ rest, s.port = .resetInput :: rest ∧ step s = .next (applyReset { s with port := rest })) ∨
    (∃ r, s.run = some r ∧ step s = microOp r.stage s) ∨
    step s = .next (emitEmpty s) ∨
    ∃ w rest, s.run = none ∧ s.port = .command w :: rest ∧ step s = exec (decodeCmd w) { s with port := rest } := by
  by_cases hreset : s.port.head? = some .resetInput
  · obtain ⟨rest, hport⟩ := List.head?_eq_some_iff.mp hreset
    exact .inl ⟨rest, hport, step_of_resetInput hport⟩
  match hrun : s.run, hport : s.port with
  | some r, _ => exact .inr (.inl ⟨r, rfl, by rw [step_of_run hrun hreset, microOp_eq_exec]⟩)
  | none, [] => exact .inr (.inr (.inl (step_of_idle hrun hport)))
  | none, .command w :: rest =>
    exact .inr (.inr (.inr ⟨w, rest, rfl, rfl, by rw [step_of_command hrun hport, hrun]⟩))
  | none, .resetInput :: rest => exact absurd (by rw [hport]; rfl) hreset

/-- What every micro-operation on a run in progress keeps, the whole run keeps. -/
theorem runToDone_preserves {P : State → Prop}
    (hop : ∀ {s t r}, s.run = some r → microOp r.stage s = .next t → P s → P t) {k : Nat} {s t : State} (hs : P s)
    (h : runToDone k s = .next t) : P t := by
  induction k generalizing s with
  | zero => cases h; exact hs
  | succ k ih =>
    cases hrun : s.run with
    | none => rw [runToDone_ended _ s hrun] at h; cases h; exact hs
    | some r =>
      cases hm : microOp r.stage s with
      | next u => exact ih (hop hrun hm hs) ((runToDone_succ k s u r hrun hm).symm.trans h)
      | fault f => simp [runToDone, hrun, hm] at h
      | refused f => simp [runToDone, hrun, hm] at h

/-! ### The loaded key -/

/-- The key register is as it was. -/
def KeepsKey (s t : State) : Prop := t.key_valid = s.key_valid ∧ t.KEY = s.KEY

theorem microOp_keepsKey {s t : State} {r : Run} (hrun : s.run = some r) (h : microOp r.stage s = .next t) :
    KeepsKey s t := by
  obtain ⟨-, -, -, -, hKEY, hkv, -⟩ := (microOp_hasEffect hrun r.stage t h).samePersistent
  exact ⟨hkv, hKEY⟩

theorem execAppend_keepsKey {b : Byte} {now : Time} {s t : State} (h : execAppend b now s = .next t) :
    KeepsKey s t := by
  by_cases hlen : s.len.val < 258
  · obtain ⟨u, hu, -, -, -, -, hKEY, hkv, -⟩ := execAppend_stores b now hlen
    rw [hu] at h
    cases h
    exact ⟨hkv, hKEY⟩
  · rw [execAppend_drops b now (by omega)] at h
    cases h
    exact ⟨rfl, rfl⟩

theorem execPoll_keepsKey {now : Time} {s t : State} (h : execPoll now s = .next t) : KeepsKey s t := by
  by_cases hfl : Ref.flushes s now
  · rw [execPoll_of_flushes hfl] at h
    refine runToDone_preserves (P := KeepsKey s) (fun hrun hm ⟨hkv, hKEY⟩ => ?_) (s := openRun s _) ⟨rfl, rfl⟩ h
    obtain ⟨hkv', hKEY'⟩ := microOp_keepsKey hrun hm
    exact ⟨hkv'.trans hkv, hKEY'.trans hKEY⟩
  · rw [execPoll_of_not_flushes hfl] at h
    cases h
    exact ⟨rfl, rfl⟩

/-- A second KEYLOAD changes nothing, and RESET alone of the other commands writes KEY (R121, R178). -/
theorem command_keepsKey {i : Instr} {s t : State} (hcmd : i.isStage = false) (hreset : i ≠ .reset)
    (hkey : s.key_valid = true) (h : exec i s = .next t) : KeepsKey s t := by
  cases i with
  | reset => exact absurd rfl hreset
  | keyload k => simp only [exec, execKeyload, hkey, if_true] at h; cases h; exact ⟨rfl, rfl⟩
  | setto u => cases h; exact ⟨rfl, rfl⟩
  | append b now => exact execAppend_keepsKey h
  | poll now => exact execPoll_keepsKey h
  | reserved0 | reserved6 | reserved7 => cases h; exact ⟨rfl, rfl⟩
  | _ => cases hcmd

/-- Settles O25: only a reset input and a RESET command write KEY once it is loaded. -/
theorem keyIsWriteOnce : Obligations.KeyIsWriteOnce := by
  intro s t hstep hkey
  have hkept : KeepsKey s t → t.key_valid = true ∧ t.KEY = s.KEY := fun ⟨hkv, hKEY⟩ => ⟨hkv.trans hkey, hKEY⟩
  obtain ⟨rest, hport, -⟩ | ⟨r, hrun, hs⟩ | hs | ⟨w, rest, hrun, hport, hs⟩ := step_cases s
  · exact .inr (.inl (by rw [hport]; rfl))
  · exact .inl (hkept (microOp_keepsKey hrun (hs.symm.trans hstep)))
  · rw [hs] at hstep
    cases hstep
    exact .inl (hkept ⟨rfl, rfl⟩)
  · by_cases hreset : decodeCmd w = .reset
    · exact .inr (.inr ⟨hrun, w, rest, hport, hreset⟩)
    · exact .inl (hkept (command_keepsKey (s := { s with port := rest }) (decodeCmd_isStage w) hreset hkey
        (hs.symm.trans hstep)))

/-! ### The invariant of a run -/

/-- Checks 1 to 5 together are a ValidFrame (R147); the upper bound is that of the length byte (R86). -/
theorem validFrame_of_passed {kv : Bool} {r : Run} (hp : ∀ k < 6, Passed kv r k) : ValidFrame r.B := by
  have hlen : r.B[2]?.map declaredLen = some r.B.length := hp 3 (by omega)
  obtain ⟨hopen, hfmt⟩ := hp 2 (by omega)
  obtain ⟨b, -, hb⟩ := Option.map_eq_some_iff.mp hlen
  have hmax : r.B.length ≤ 257 := by
    have := b.isLt
    rw [declaredLen] at hb
    omega
  exact ⟨hp 1 (by omega), hmax, hopen, hfmt, hlen, hp 4 (by omega), hp 5 (by omega)⟩

/-- `RunOk` as the list of what the positions behind the sequencer have established. -/
theorem runOk_iff_passed (kv : Bool) (r : Run) : RunOk kv r ↔
    (1 ≤ r.n ∧ r.n ≤ Config.bufCap) ∧ (r.stage ≠ stDone → r.code = 0) ∧
    (1 ≤ r.stage.toNat → r.stage.toNat ≤ 6 → r.warn = false) ∧ ∀ k < r.stage.toNat, Passed kv r k := by
  constructor
  · rintro ⟨hn, hcode, hmin, hopen, hlen, hclose, hvalid, hwarn, hkey, hnonce, hctr, hinteg⟩
    refine ⟨hn, hcode, hwarn, fun k hk => ?_⟩
    unfold Passed
    split
    · exact hmin hk
    · exact hopen hk
    · exact hlen hk
    · exact hclose hk
    · obtain ⟨-, -, -, -, -, -, hcrc⟩ := hvalid hk
      exact hcrc
    · exact hkey hk
    · exact hnonce hk
    · exact hctr hk
    · exact hinteg hk
    · trivial
  · rintro ⟨hn, hcode, hwarn, hp⟩
    exact ⟨hn, hcode, hp 1, hp 2, hp 3, hp 4, fun h6 => validFrame_of_passed fun k hk => hp k (by omega), hwarn,
      hp 7, hp 8, hp 9, hp 10⟩

/-- What position `k` has established stays while the snapshot and what it wrote do. -/
theorem Passed.congr {kv : Bool} {r r' : Run} {k : Nat} (h : Passed kv r k) (hB : r'.B = r.B)
    (hNB : k = 8 → r'.NB = r.NB) (hPB : 9 ≤ k → r'.PB = r.PB) : Passed kv r' k := by
  unfold Passed Run.n Run.L at *
  rw [hB]
  split at h
  case h_7 => rw [hNB rfl]; exact h
  case h_8 => rw [hPB (by omega)]; exact h
  case h_9 => rw [hPB (by omega)]; exact h
  all_goals exact h

/-- A position that lets the run pass adds its own fact to those before it. -/
theorem runOk_of_advance {kv : Bool} {r r' : Run} (h : RunOk kv r) (hpos : r.stage ≠ stDone)
    (hstage : r'.stage.toNat = r.stage.toNat + 1) (hcode : r'.code = r.code) (hframe : RunFrame r.stage r r')
    (hpassed : Passed kv r' r.stage.toNat) : RunOk kv r' := by
  obtain ⟨hn, hcode0, hwarn, hp⟩ := (runOk_iff_passed kv r).mp h
  have hpos' : 1 ≤ r.stage.toNat := Nat.pos_of_ne_zero fun h0 => hpos (BitVec.eq_of_toNat_eq h0)
  refine (runOk_iff_passed kv r').mpr ⟨?_, fun _ => hcode.trans (hcode0 hpos), fun _ h6 => ?_, fun k hk => ?_⟩
  · rwa [Run.n, hframe.B]
  · have hne : r.stage ≠ stChkModel := fun h0 => by rw [hstage, h0] at h6; exact absurd h6 (by decide)
    rw [hframe.warn hne]
    exact hwarn hpos' (by omega)
  · obtain rfl | hlt := Nat.eq_or_lt_of_le (Nat.lt_succ_iff.mp (hstage ▸ hk))
    · exact hpassed
    · refine (hp k hlt).congr hframe.B (fun h8 => hframe.NB fun h0 => ?_) (fun h9 => hframe.PB fun h0 => ?_)
      · rw [h0] at hlt
        exact absurd (h8 ▸ hlt) (by decide)
      · rw [h0] at hlt
        exact absurd hlt (Nat.not_lt.mpr h9)

/-- At DONE only the bounds of the snapshot are left. -/
theorem runOk_done {kv : Bool} {r : Run} (h : RunOk kv r) (k : ResCode) :
    RunOk kv { r with code := k, stage := stDone } :=
  (runOk_iff_passed kv _).mpr ⟨h.1, fun h0 => absurd rfl h0, fun h1 => absurd h1 (Nat.not_succ_le_zero 0),
    fun j hj => absurd hj (Nat.not_lt_zero j)⟩

theorem runOk_startRun {kv : Bool} {B : List Byte} (hpos : 1 ≤ B.length) (hmax : B.length ≤ 258) :
    RunOk kv (startRun B) := by
  refine (runOk_iff_passed kv _).mpr ⟨⟨hpos, hmax⟩, fun _ => rfl, fun _ _ => rfl, fun k hk => ?_⟩
  obtain rfl : k = 0 := Nat.lt_one_iff.mp hk
  trivial

/-! ### The invariant of the record -/

theorem recordOk_reject {x : Exc} {warn : Bool} (hx : x ≠ .extractionOutOfBounds)
    (hwarn : (excCode x).toNat ≤ 5 → warn = false) : RecordOk (rejectRecord (excCode x) warn) := by
  have hcode : excCode x ≠ 0 ∧ excCode x ≠ 7 := by
    cases x with
    | extractionOutOfBounds => exact absurd rfl hx
    | _ => decide
  exact ⟨(decide_eq_false hcode.1).symm, nofun, fun _ => ⟨rfl, rfl, rfl, rfl⟩, (excCode_bounds x).2,
    hcode.2, fun _ => hwarn⟩

theorem recordOk_reading (r : Run) : RecordOk (readingRecord r) :=
  ⟨rfl, nofun, nofun, Nat.zero_le 8, (show (0 : ResCode) ≠ 7 by decide),
    fun h => absurd h (Nat.not_succ_le_zero 0)⟩

/-- Codes 1 to 5 are those of the positions 1 to 5 (R105, R240). -/
theorem RaisedAt.toNat_eq {c : StageCode} {r : Run} {x : Exc} (h : RaisedAt c r x) (hx : (excCode x).toNat ≤ 5) :
    c.toNat = (excCode x).toNat := by
  cases x with
  | tooShort | badOpeningMarker | lengthMismatch | badClosingMarker | crcMismatch => rw [show c = _ from h]; rfl
  | integrityCheckFailed | extractionOutOfBounds | keyNotLoaded => exact absurd hx (by decide)

/-- A payload that passed INTEG has more than the 39 bytes that EXTRACT reads (R176). -/
theorem extractRegs_ne_none_of_markersOk {P : List Byte} (h : markersOk P = true) : extractRegs P ≠ none := by
  obtain ⟨-, hsep⟩ := (markersOk_iff P).mp h
  have hlen := (hsep 8 (by omega) (by omega)).1
  obtain ⟨x, hx⟩ := extractRegs_isSome (P := P) (by omega)
  simp [hx]

/-- The record of an error that a run at its own position raises. -/
theorem recordOk_of_raisedAt {kv : Bool} {r : Run} {x : Exc} (h : RunOk kv r) (hx : RaisedAt r.stage r x) :
    RecordOk (rejectRecord (excCode x) r.warn) := by
  obtain ⟨-, -, hwarn, hp⟩ := (runOk_iff_passed kv r).mp h
  refine recordOk_reject ?_ fun h5 => ?_
  · rintro rfl
    obtain ⟨hstage, hnone⟩ := hx
    exact extractRegs_ne_none_of_markersOk (hp 10 (by rw [hstage]; decide)) hnone
  · have hcode := hx.toNat_eq h5
    exact hwarn (hcode ▸ (excCode_bounds x).1) (by omega)

/-! ### The invariant of the block -/

theorem BlockInv.with_run_res {s : State} (h : BlockInv s) {run : Option Run} {res : ResultRecord}
    (hrun : ∀ r ∈ run, RunOk s.key_valid r) (hres : RecordOk res) : BlockInv { s with run := run, res := res } := by
  obtain ⟨hbuf, hkey, -, -⟩ := h
  exact ⟨hbuf, hkey, fun r hr => (runOk_iff _ _).mpr (hrun r hr), (recordOk_iff _).mpr hres⟩

theorem BlockInv.runOk {s : State} {r : Run} (h : BlockInv s) (hrun : s.run = some r) : RunOk s.key_valid r := by
  obtain ⟨-, -, hruns, -⟩ := h
  exact (runOk_iff _ _).mp (hruns r hrun)

theorem BlockInv.recordOk {s : State} (h : BlockInv s) : RecordOk s.res := by
  obtain ⟨-, -, -, hres⟩ := h
  exact (recordOk_iff _).mp hres

theorem blockInv_applyReset (s : State) : BlockInv (applyReset s) := resetMeetsInv

theorem BlockInv.emitEmpty {s : State} (h : BlockInv s) : BlockInv (emitEmpty s) :=
  h.with_run_res (fun _ => h.runOk) recordOk_empty

/-- The micro-operation that a run's position selects keeps the invariant. -/
theorem microOp_keepsInv {s t : State} {r : Run} (hrun : s.run = some r) (h : microOp r.stage s = .next t)
    (hinv : BlockInv s) : BlockInv t := by
  have hok := hinv.runOk hrun
  have hends : r.stage = stDone → t.run = none := fun h0 => by
    rw [h0, microOp_done] at h
    cases h
    rfl
  cases microOp_hasEffect hrun r.stage t h with
  | ends => exact hinv.with_run_res (by simp) hinv.recordOk
  | advances r' hstage hcode hframe hpassed =>
    refine hinv.with_run_res ?_ hinv.recordOk
    rintro _ ⟨⟩
    exact runOk_of_advance hok (fun h0 => nomatch hends h0) hstage hcode hframe hpassed
  | raises x hx =>
    refine hinv.with_run_res ?_ (recordOk_of_raisedAt hok hx)
    rintro _ ⟨⟩
    exact runOk_done hok _
  | publishes =>
    refine hinv.with_run_res ?_ (recordOk_reading r)
    rintro _ ⟨⟩
    exact runOk_done hok _

theorem execAppend_keepsInv {b : Byte} {now : Time} {s t : State} (hinv : BlockInv s)
    (h : execAppend b now s = .next t) : BlockInv t := by
  by_cases hlen : s.len.val < 258
  · obtain ⟨u, hu, hFB, hl, -, -, hKEY, hkv, hrun, hres, -⟩ := execAppend_stores b now hlen
    rw [hu] at h
    cases h
    obtain ⟨⟨hwf, hcells⟩, hkey, hruns, -⟩ := hinv
    rw [BlockInv, hFB, hl, hKEY, hkv, hrun, hres]
    refine ⟨⟨Memory.wf_write _ _ _ hwf, fun c hc => ?_⟩, hkey, hruns, (recordOk_iff _).mpr recordOk_empty⟩
    obtain rfl | hc := Memory.mem_write _ _ _ c hc
    · exact Nat.lt_succ_self _
    · exact Nat.lt_succ_of_lt (hcells c hc)
  · rw [execAppend_drops b now (by omega)] at h
    cases h
    exact BlockInv.emitEmpty (s := { s with last := now }) hinv

theorem blockInv_openRun {s : State} {B : List Byte} (hinv : BlockInv s) (hpos : 1 ≤ B.length)
    (hmax : B.length ≤ 258) : BlockInv (openRun s B) := by
  obtain ⟨-, hkey, -, hres⟩ := hinv
  refine ⟨⟨Memory.wf_empty, by simp [Memory.empty]⟩, hkey, ?_, hres⟩
  rintro _ ⟨⟩
  exact (runOk_iff _ _).mpr (runOk_startRun hpos hmax)

theorem execPoll_keepsInv {now : Time} {s t : State} (hinv : BlockInv s) (h : execPoll now s = .next t) :
    BlockInv t := by
  by_cases hfl : Ref.flushes s now
  · rw [execPoll_of_flushes hfl] at h
    refine runToDone_preserves microOp_keepsInv (blockInv_openRun hinv ?_ ?_) h
    · rw [Memory.readBytes_length]
      exact hfl.1
    · rw [Memory.readBytes_length]
      exact Nat.lt_succ_iff.mp s.len.isLt
  · rw [execPoll_of_not_flushes hfl] at h
    cases h
    exact hinv.emitEmpty

theorem execKeyload_keepsInv {k : Vector Byte 16} {s t : State} (hinv : BlockInv s) (hrun : s.run = none)
    (h : execKeyload k s = .next t) : BlockInv t := by
  unfold execKeyload at h
  split at h
  · cases h
    exact hinv.emitEmpty
  · cases h
    obtain ⟨hbuf, -, -, hres⟩ := hinv
    refine BlockInv.emitEmpty ⟨hbuf, nofun, ?_, hres⟩
    simp [hrun]

theorem command_keepsInv {i : Instr} {s t : State} (hcmd : i.isStage = false) (hrun : s.run = none)
    (hinv : BlockInv s) (h : exec i s = .next t) : BlockInv t := by
  cases i with
  | reset => cases h; exact blockInv_applyReset s
  | keyload k => exact execKeyload_keepsInv hinv hrun h
  | setto u => cases h; exact BlockInv.emitEmpty (s := { s with idle_timeout := u }) hinv
  | append b now => exact execAppend_keepsInv hinv h
  | poll now => exact execPoll_keepsInv hinv h
  | reserved0 | reserved6 | reserved7 => cases h; exact hinv.emitEmpty
  | _ => cases hcmd

/-- Settles O9: each of the four cases of a step keeps the invariant. -/
theorem stepKeepsInv : Obligations.StepKeepsInv := by
  intro s t hinv hstep
  obtain ⟨rest, -, hs⟩ | ⟨r, hrun, hs⟩ | hs | ⟨w, rest, hrun, -, hs⟩ := step_cases s
  · rw [hs] at hstep
    cases hstep
    exact blockInv_applyReset _
  · exact microOp_keepsInv hrun (hs.symm.trans hstep) hinv
  · rw [hs] at hstep
    cases hstep
    exact hinv.emitEmpty
  · exact command_keepsInv (s := { s with port := rest }) (decodeCmd_isStage w) hrun hinv (hs.symm.trans hstep)

end Sys2Proof.Machine

/-! PROOFS, family 20_memory: the little-endian read (R53), the reads outside the bounds of the snapshot (R57), and the
frame buffer under a list of APPENDs (R51, R123). What a list of APPENDs does is `Appended`, which holds of one APPEND
and is composed along the list, from every fill of the buffer. -/

namespace Sys2Proof.Machine

/-! ### The little-endian read -/

theorem le16_of_getElem? {S : List Byte} {a : Nat} {lo hi : Byte} (hlo : S[a]? = some lo) (hhi : S[a + 1]? = some hi) :
    le16 S a = some (hi ++ lo) := by
  simp only [le16, hlo, hhi]

/-- Settles O56: the two bytes put together, high byte first, and the number of two bytes put together. -/
theorem littleEndianRead : Obligations.LittleEndianRead :=
  fun _ _ lo hi hlo hhi => ⟨hi ++ lo, le16_of_getElem? hlo hhi, toNat_byte_append hi lo⟩

/-! ### Reads outside the bounds -/

/-- A micro-operation whose first read is outside the bounds. -/
theorem withRun_readSeq_none {α : Type} {s : State} {r : Run} {v : Run → Option α} {f : Run → α → Result}
    (hrun : s.run = some r) (hv : v r = none) :
    withRun s (fun r => readSeq (v r) (f r)) = .fault .outOfBounds := by
  rw [withRun_some _ _ _ hrun, hv, readSeq_none]

/-- CHK_OPEN needs both bytes of the marker: it faults at the second read when only the first is in bounds. -/
theorem execChkOpen_outOfBounds {s : State} {r : Run} (hrun : s.run = some r) (hlen : r.B.length < 2) :
    execChkOpen s = .fault .outOfBounds := by
  have h1 : r.B[1]? = none := List.getElem?_eq_none (by omega)
  rw [execChkOpen, withRun_some _ _ _ hrun, h1]
  cases r.B[0]? with
  | none => rfl
  | some b0 => rfl

/-- Settles O45: in each clause a read that the micro-operation makes has no value. -/
theorem readsOutsideBoundsFault : Obligations.ReadsOutsideBoundsFault := by
  intro s r hrun
  refine ⟨execChkOpen_outOfBounds hrun, fun h => ?chkLen, fun h => ?chkClose, fun h => ?chkCrc, fun h => ?chkModel,
    fun h => ?nonce, fun h => ?ctr⟩
  case chkLen => exact withRun_readSeq_none hrun (List.getElem?_eq_none (by omega))
  case chkClose => exact withRun_readSeq_none hrun (List.getElem?_eq_none (by omega))
  case chkCrc => exact withRun_readSeq_none hrun (slice_none (by omega))
  case chkModel => exact withRun_readSeq_none hrun (slice_none (by omega))
  case nonce => exact withRun_readSeq_none hrun (nonceOf_none h)
  case ctr => exact withRun_readSeq_none hrun (slice_none (by simp only [Config.hdrLen]; omega))

/-! ### A list of APPENDs -/

/-- What the APPENDs of `bs` make of `s`: the bytes stand in order from index `len` on, as far as the buffer reaches;
every other cell reads as before, and so does all the state that APPEND does not write (R123). -/
structure Appended (bs : List (Byte × Time)) (s t : State) : Prop where
  len_eq : t.len.val = min (s.len.val + bs.length) 258
  read_stored : ∀ i (h : i < bs.length), s.len.val + i < 258 → Memory.read t.FB (s.len.val + i) = (bs[i]).1
  read_kept : ∀ a, a < s.len.val ∨ t.len.val ≤ a → Memory.read t.FB a = Memory.read s.FB a
  last_eq : t.last = (bs.getLast?.map Prod.snd).getD s.last
  frame : t = { s with FB := t.FB, len := t.len, last := t.last, res := t.res }

theorem Appended.nil (s : State) : Appended [] s s where
  len_eq := by simp only [List.length_nil]; omega
  read_stored := nofun
  read_kept _ _ := rfl
  last_eq := rfl
  frame := rfl

theorem Appended.append {bs cs : List (Byte × Time)} {s t u : State} (hbs : Appended bs s t) (hcs : Appended cs t u) :
    Appended (bs ++ cs) s u where
  len_eq := by
    have h1 := hbs.len_eq
    have h2 := hcs.len_eq
    simp only [List.length_append]
    omega
  read_stored i hi hfit := by
    have hlen := hbs.len_eq
    by_cases hib : i < bs.length
    · rw [List.getElem_append_left hib, hcs.read_kept _ (.inl (by omega)), hbs.read_stored i hib hfit]
    · rw [List.length_append] at hi
      have hidx : s.len.val + i = t.len.val + (i - bs.length) := by omega
      rw [List.getElem_append_right (by omega), hidx, hcs.read_stored (i - bs.length) (by omega) (by omega)]
  read_kept a ha := by
    have h1 := hbs.len_eq
    have h2 := hcs.len_eq
    rw [hcs.read_kept a (by omega), hbs.read_kept a (by omega)]
  last_eq := by
    rw [hcs.last_eq, hbs.last_eq, List.getLast?_append]
    cases cs.getLast? <;> rfl
  frame := by rw [hcs.frame, hbs.frame]

/-- One APPEND, in its two cases: the byte is stored, or dropped from a full buffer. -/
theorem execAppend_appended (b : Byte) (now : Time) (s : State) :
    ∃ t, execAppend b now s = .next t ∧ Appended [(b, now)] s t := by
  by_cases hlen : s.len.val < 258
  · obtain ⟨t, ht, hFB, hl, hlast, hto, hKEY, hkv, hrun, -, hport⟩ := execAppend_stores b now hlen
    refine ⟨t, ht, ?_, fun i hi _ => ?_, fun a ha => ?_, hlast, ?_⟩
    · simp only [List.length_singleton]
      omega
    · obtain rfl : i = 0 := by simpa using hi
      rw [hFB]
      exact Memory.read_write_same _ _ _
    · rw [hFB, Memory.read_write_other _ _ _ _ (by omega)]
    · rw [← hto, ← hKEY, ← hkv, ← hrun, ← hport]
  · have hfull : s.len.val = 258 := by omega
    refine ⟨_, execAppend_drops b now hfull, ?_, fun i _ hfit => ?_, fun _ _ => rfl, rfl, rfl⟩
    · simp only [emitEmpty_len, List.length_singleton]
      omega
    · omega

theorem execAll_appended (bs : List (Byte × Time)) (s : State) :
    ∃ t, Ref.execAll (bs.map fun p => .append p.1 p.2) s = .next t ∧ Appended bs s t := by
  induction bs generalizing s with
  | nil => exact ⟨s, rfl, .nil s⟩
  | cons p bs ih =>
    obtain ⟨t, ht, hone⟩ := execAppend_appended p.1 p.2 s
    obtain ⟨u, hu, hrest⟩ := ih t
    refine ⟨u, ?_, hone.append hrest⟩
    simp only [List.map_cons, Ref.execAll, exec, ht, hu]

/-- Settles O26: what a list of APPENDs does, from an empty buffer. -/
theorem appendsFillTheBufferInOrder : Obligations.AppendsFillTheBufferInOrder := by
  intro bs s hempty
  obtain ⟨t, ht, hall⟩ := execAll_appended bs s
  have hlen : t.len.val = min bs.length 258 := by rw [hall.len_eq, hempty, Nat.zero_add]
  refine ⟨t, ht, hlen, fun i hi hfit => ?_, fun a ha => ?_, hall.last_eq⟩
  · have hread := hall.read_stored i hi
    rw [hempty, Nat.zero_add] at hread
    exact hread hfit
  · exact hall.read_kept a (.inr (hlen ▸ ha))

end Sys2Proof.Machine

/-! PROOFS, family 30_encoding: the decoder against the encoder and against the bits of the command word (R80 to R84,
R105, R106), the instruction that a placed word or a trace line stands for (R106 to R108), and the records and channels
without and with a reading (R100, R101). -/

namespace Sys2Proof

/-! ### Operands put into a word and read back -/

theorem packBytes_lt (bs : List Byte) : packBytes bs < 2 ^ (8 * bs.length) := by
  induction bs with
  | nil => exact Nat.one_pos
  | cons b bs ih =>
    have hb := b.isLt
    rw [packBytes, List.length_cons, Nat.mul_succ, Nat.pow_add]
    omega

/-- Byte `i` of the packed number is byte `i` of the list (R106). -/
theorem packBytes_div_mod {bs : List Byte} {i : Nat} (h : i < bs.length) :
    packBytes bs / 2 ^ (8 * i) % 2 ^ 8 = (bs[i]).toNat := by
  induction bs generalizing i with
  | nil => cases h
  | cons b bs ih =>
    have hb := b.isLt
    cases i with
    | zero =>
      simp only [packBytes, List.getElem_cons_zero]
      omega
    | succ i =>
      have htail : packBytes (b :: bs) / 2 ^ 8 = packBytes bs := by
        rw [packBytes]
        omega
      rw [Nat.mul_succ, Nat.add_comm, Nat.pow_add, ← Nat.div_div_eq_div_mul, htail, List.getElem_cons_succ]
      exact ih (Nat.lt_of_succ_lt_succ h)

@[simp] theorem toNat_keyArg (k : Vector Byte 16) : (keyArg k).toNat = packBytes k.toList := by
  have h := packBytes_lt k.toList
  rw [Vector.length_toList] at h
  exact Nat.mod_eq_of_lt h

@[simp] theorem keyOperand_keyArg (k : Vector Byte 16) : keyOperand (keyArg k) = k := by
  refine Vector.ext fun i hi => BitVec.eq_of_toNat_eq ?_
  rw [keyOperand, Vector.getElem_ofFn, toNat_argByte, toNat_keyArg, packBytes_div_mod (by simpa using hi)]
  simp

@[simp] theorem timeoutOperand_setWidth (t : Time) : timeoutOperand (t.setWidth 128) = t := by
  have ht := t.isLt
  apply BitVec.eq_of_toNat_eq
  rw [toNat_timeoutOperand, BitVec.toNat_setWidth]
  omega

@[simp] theorem byteOperand_setWidth (b : Byte) : byteOperand (b.setWidth 128) = b := by
  have hb := b.isLt
  apply BitVec.eq_of_toNat_eq
  rw [byteOperand, toNat_argByte, BitVec.toNat_setWidth]
  omega

/-- Settles O1: a command word is decoded by its operation code, and each operand is read back from the fields it was
packed into; a sequencer code is one of sixteen fixed values. -/
theorem decodeEncodeAgree : Obligations.DecodeEncodeAgree := by
  intro i
  cases i with
  | reserved0 => exact decodeCmd_op0 _ (opField_cmdWord 0 0 0)
  | reset => exact decodeCmd_op1 _ (opField_cmdWord 1 0 0)
  | keyload k => exact (decodeCmd_op2 _ (opField_cmdWord ..)).trans (by simp)
  | setto t => exact (decodeCmd_op3 _ (opField_cmdWord ..)).trans (by simp)
  | append b now => exact (decodeCmd_op4 _ (opField_cmdWord ..)).trans (by simp)
  | poll now => exact (decodeCmd_op5 _ (opField_cmdWord ..)).trans (by simp)
  | reserved6 => exact decodeCmd_op6 _ (opField_cmdWord 6 0 0)
  | reserved7 => exact decodeCmd_op7 _ (opField_cmdWord 7 0 0)
  | _ => rfl

/-! ### Operands as bits of the command word -/

theorem opField_eq_of_toNat_mod {w : CmdWord} {op : BitVec 3} (h : w.toNat % 8 = op.toNat) : opField w = op :=
  BitVec.eq_of_toNat_eq ((toNat_opField w).trans h)

theorem toNat_cmdBits (w : CmdWord) (start len : Nat) :
    (w.extractLsb' start len).toNat = w.toNat / 2 ^ start % 2 ^ len := by
  rw [BitVec.extractLsb'_toNat, Nat.shiftRight_eq_div_pow]

/-- A part of the argument is a part of the command word, 35 bits higher up. -/
theorem extractLsb'_argField (w : CmdWord) {start len : Nat} (h : start + len ≤ 128) :
    (argField w).extractLsb' start len = w.extractLsb' (35 + start) len := by
  refine BitVec.eq_of_getLsbD_eq fun i hi => ?_
  simp only [argField, BitVec.getLsbD_extractLsb', hi, decide_true, Bool.true_and, Nat.add_assoc,
    show start + i < 128 by omega]

theorem getElem_keyOperand (w : CmdWord) (i : Fin 16) :
    (keyOperand (argField w))[i.val] = w.extractLsb' (35 + 8 * i.val) 8 := by
  rw [keyOperand, Vector.getElem_ofFn]
  exact extractLsb'_argField w (by omega)

theorem timeoutOperand_argField (w : CmdWord) : timeoutOperand (argField w) = w.extractLsb' 35 32 :=
  extractLsb'_argField w (by omega)

theorem byteOperand_argField (w : CmdWord) : byteOperand (argField w) = w.extractLsb' 35 8 :=
  extractLsb'_argField w (by omega)

/-- Settles O2: the eight operation codes, each operand as the number of its bits. -/
theorem commandOperandBits : Obligations.CommandOperandBits := by
  intro w
  refine ⟨fun h => decodeCmd_op0 w (opField_eq_of_toNat_mod h), fun h => decodeCmd_op1 w (opField_eq_of_toNat_mod h),
    fun h => ⟨_, decodeCmd_op2 w (opField_eq_of_toNat_mod h), fun i => ?key⟩,
    fun h => ⟨_, decodeCmd_op3 w (opField_eq_of_toNat_mod h), ?timeout⟩,
    fun h => ⟨_, _, decodeCmd_op4 w (opField_eq_of_toNat_mod h), ?byte, toNat_nowField w⟩,
    fun h => ⟨_, decodeCmd_op5 w (opField_eq_of_toNat_mod h), toNat_nowField w⟩,
    fun h => decodeCmd_op6 w (opField_eq_of_toNat_mod h), fun h => decodeCmd_op7 w (opField_eq_of_toNat_mod h)⟩
  case key => simp only [getElem_keyOperand, toNat_cmdBits, Nat.reducePow]
  case timeout => rw [timeoutOperand_argField, toNat_cmdBits]
  case byte => simp only [byteOperand_argField, toNat_cmdBits, Nat.reducePow]

/-- Settles O3: the decoded instruction is a function of the operation code and the bits named. -/
theorem unusedCommandBitsIgnored : Obligations.UnusedCommandBitsIgnored := by
  intro w w' hop
  refine ⟨fun h => ?reset, fun h harg => ?keyload, fun h htimeout => ?setto, fun h hbyte hnow => ?append,
    fun h hnow => ?poll⟩
  case reset => rw [decodeCmd_op1 w h, decodeCmd_op1 w' (hop.symm.trans h)]
  case keyload =>
    rw [decodeCmd_op2 w h, decodeCmd_op2 w' (hop.symm.trans h), argField, argField, harg]
  case setto =>
    rw [decodeCmd_op3 w h, decodeCmd_op3 w' (hop.symm.trans h), timeoutOperand_argField, timeoutOperand_argField,
      htimeout]
  case append =>
    rw [decodeCmd_op4 w h, decodeCmd_op4 w' (hop.symm.trans h), byteOperand_argField, byteOperand_argField, hbyte,
      nowField, nowField, hnow]
  case poll => rw [decodeCmd_op5 w h, decodeCmd_op5 w' (hop.symm.trans h), nowField, nowField, hnow]

/-- Settles O4: the eight words, evaluated. -/
theorem specWordsDecode : Obligations.SpecWordsDecode := by
  unfold Obligations.SpecWordsDecode
  decide

end Sys2Proof

namespace Sys2Proof.Machine

/-! ### A word placed -/

theorem head?_dropResets (es : List HostEvent) : (dropResets es).head? ≠ some .resetInput := by
  induction es with
  | nil => nofun
  | cons e es ih =>
    cases e with
    | command w => nofun
    | resetInput => exact ih

theorem placeWord_stage (s : State) (c : StageCode) :
    ∃ r, r.stage = c ∧ placeWord s (.stage c) = { s with run := some r, port := dropResets s.port } := by
  cases hrun : s.run with
  | some r => exact ⟨{ r with stage := c }, rfl, by simp only [placeWord, hrun]⟩
  | none => exact ⟨{ startRun standInFrame with stage := c }, rfl, by simp only [placeWord, hrun]⟩

/-- The step after a word was placed runs the word's instruction, on a state in which at most the run and the host
events differ. -/
theorem step_placeWord (s : State) (cw : CodeWord) :
    ∃ run port, step (placeWord s cw) = exec (decode cw) { s with run := run, port := port } := by
  cases cw with
  | cmd w => exact ⟨none, s.port, step_of_command rfl rfl⟩
  | stage c =>
    obtain ⟨r, rfl, hplaced⟩ := placeWord_stage s c
    rw [hplaced]
    exact ⟨some r, dropResets s.port, step_of_run rfl (head?_dropResets _)⟩

/-- Settles O6: the word that `decodeTableWord` reads is the one that `withFetchWord` places. -/
theorem placedWordIsRun : Obligations.PlacedWordIsRun := by
  intro s nbits w i hi
  cases hread : readRawWord nbits w with
  | error e => simp [decodeTableWord, hread] at hi
  | ok cw =>
    obtain ⟨run, port, hstep⟩ := step_placeWord s cw
    obtain rfl : decode cw = i := by simpa [decodeTableWord, hread] using hi
    refine ⟨{ s with run := run, port := port }, ?_, rfl, rfl, rfl, rfl, rfl, rfl⟩
    rw [State.withFetchWord, hread]
    exact hstep

/-! ### Traces -/

/-- A host command is a trace line: its word decodes to it (R106). -/
theorem exists_eventOf {i : Instr} (hcmd : i.isStage = false) :
    ∃ w, eventOf i = some (.command w) ∧ decodeCmd w = i := by
  have hdecode := decodeEncodeAgree i
  unfold eventOf
  cases hword : encode i with
  | cmd w => exact ⟨w, rfl, by rwa [hword] at hdecode⟩
  | stage c =>
    rw [hword] at hdecode
    rw [← hdecode] at hcmd
    exact absurd (decodeStage_isStage c) (Bool.eq_false_iff.mp hcmd)

/-- A step with a trace at the port runs its first line. -/
theorem step_of_trace {i : Instr} {is : List Instr} {s : State} (hcmd : i.isStage = false) (hrun : s.run = none)
    (hport : s.port = eventsOf (i :: is)) : step s = exec i { s with port := eventsOf is } := by
  obtain ⟨w, hevent, rfl⟩ := exists_eventOf hcmd
  exact step_of_command hrun (by rw [hport, eventsOf, List.filterMap_cons_some hevent, eventsOf])

theorem Appended.run_eq {bs : List (Byte × Time)} {s t : State} (h : Appended bs s t) : t.run = s.run := by
  rw [h.frame]

theorem Appended.port_eq {bs : List (Byte × Time)} {s t : State} (h : Appended bs s t) : t.port = s.port := by
  rw [h.frame]

theorem Appended.last_eq_of_same_time {u : Time} {b : Byte} {bs : List Byte} {s t : State}
    (h : Appended ((b :: bs).map (·, u)) s t) : t.last = u := by
  rw [h.last_eq, List.getLast?_map, List.getLast?_cons]
  rfl

/-- APPEND neither reads nor writes the port. -/
theorem Appended.with_port {bs : List (Byte × Time)} {s t : State} (h : Appended bs s t) (es : List HostEvent) :
    Appended bs { s with port := es } { t with port := es } where
  len_eq := h.len_eq
  read_stored := h.read_stored
  read_kept := h.read_kept
  last_eq := h.last_eq
  frame := by rw [h.frame]

/-- The APPENDs at the front of a trace, one step each. -/
theorem core_run_appends (u : Time) (bs : List Byte) (is : List Instr) (k : Nat) {s : State} (hrun : s.run = none)
    (hport : s.port = eventsOf (bs.map (.append · u) ++ is)) :
    ∃ t : State, core.run (bs.length + k) s = core.run k t ∧
      Appended (bs.map (·, u)) { s with port := eventsOf is } t := by
  induction bs generalizing s with
  | nil =>
    have hes : s.port = eventsOf is := hport
    refine ⟨s, by rw [List.length_nil, Nat.zero_add], ?_⟩
    rw [← hes]
    exact .nil s
  | cons b bs ih =>
    have hstep := step_of_trace rfl hrun hport
    obtain ⟨t, ht, hone⟩ := execAppend_appended b u { s with port := eventsOf (bs.map (.append · u) ++ is) }
    obtain ⟨v, hv, hrest⟩ := ih (hone.run_eq.trans hrun) hone.port_eq
    refine ⟨v, ?_, (hone.with_port _).append hrest⟩
    rw [List.length_cons, Nat.add_right_comm, core_run_succ _ (hstep.trans ht), hv]

/-- No time has passed since a byte that came at the time of the POLL (R280). -/
theorem not_flushes_at_last (s : State) : ¬ Ref.flushes s s.last := by
  rintro ⟨-, hsilence⟩
  rw [Nat.add_sub_cancel_left, Nat.mod_self] at hsilence
  exact Nat.not_lt_zero _ hsilence

/-- Settles O28: after the APPENDs `last` is the time of the tick, at which its POLL does not flush. -/
theorem tickWithBytesNeverFlushes : Obligations.TickWithBytesNeverFlushes := by
  intro u b bs s hrun
  refine ⟨rfl, ?_⟩
  obtain ⟨t, ht, hall⟩ := core_run_appends u (b :: bs) [.poll u] 1 (s := loadTrace s (tick u (b :: bs))) hrun rfl
  have hlast : t.last = u := hall.last_eq_of_same_time
  have hpoll : step t = .next (emitEmpty { t with port := [] }) := by
    rw [step_of_trace (i := .poll u) (is := []) rfl (hall.run_eq.trans hrun) hall.port_eq, ← hlast]
    exact execPoll_of_not_flushes (not_flushes_at_last { t with port := [] })
  refine ⟨emitEmpty { t with port := [] }, ht.trans (core_run_succ 0 hpoll), rfl, ?_, hlast, rfl⟩
  exact hall.len_eq.trans (by simp [loadTrace, Nat.add_assoc])

/-! ### Reserved codes, records and channels -/

/-- Settles O17: `reservedCode` only emits the empty record. -/
theorem reservedCodesDoNothing : Obligations.ReservedCodesDoNothing := fun _ => ⟨rfl, rfl, rfl⟩

/-- Settles O20: the fields of the two records. -/
theorem recordsWithoutReading : Obligations.RecordsWithoutReading := by
  refine ⟨⟨rfl, rfl, rfl, rfl⟩, fun code warn => ⟨rfl, rfl, rfl, rfl, ?_⟩⟩
  rintro c (rfl | rfl) i
  · simp
  · simp

theorem publishedChannels_of_reading {c : ResultRecord} (h : c.rd_valid = true) : publishedChannels c =
    [(0, .number c.e[0]), (1, .number c.e[1]), (2, .number c.e[2]), (3, .number c.e[3]),
      (4, .number c.p[0]), (5, .number c.p[1]), (6, .number c.p[2]), (7, .number c.p[3]),
      (8, .decimal ⟨c.s_len[0], c.s_chr[0]⟩), (9, .decimal ⟨c.s_len[1], c.s_chr[1]⟩),
      (10, .decimal ⟨c.s_len[2], c.s_chr[2]⟩), (11, .decimal ⟨c.s_len[3], c.s_chr[3]⟩)] :=
  if_pos h

theorem publishedChannels_of_no_reading {c : ResultRecord} (h : c.rd_valid = false) : publishedChannels c = [] := by
  rw [publishedChannels, h]
  rfl

/-- Settles O59: the twelve entries of a reading, written out. -/
theorem channelsInAscendingOrder : Obligations.ChannelsInAscendingOrder := by
  refine ⟨by decide, fun c => ⟨fun h => ?_, publishedChannels_of_no_reading⟩⟩
  rw [publishedChannels_of_reading h]
  refine ⟨rfl, fun i => ?_⟩
  fin_cases i <;> exact ⟨rfl, rfl, rfl⟩

end Sys2Proof.Machine

/-! PROOFS, family 40_frame_synchronizer: the host commands RESET, KEYLOAD, SETTO, APPEND and POLL (R120 to R124), the
record of a flush (R125, R242) and why a saturated buffer shows in no record (R128). The record of a flush is proved
along the sequencer's positions: `EndsWith` says how the run at one of them ends, and the lemma of a position puts its
own rejection, as `Ref.frameRecord` states it, in front of the record of the positions after it. -/

namespace Sys2Proof.Machine

/-! ### The micro-operations whose reads are in bounds -/

section
variable {s : State} {r : Run} (hrun : s.run = some r)
include hrun

theorem execChkOpen_of_reads {b0 b1 : Byte} (h0 : r.B[0]? = some b0) (h1 : r.B[1]? = some b1) :
    execChkOpen s = raiseIf (b0 != flagOpen || b1 != fmtByte) .badOpeningMarker s r stChkLen := by
  rw [execChkOpen, withRun_some _ _ _ hrun, h0, readSeq_some, h1, readSeq_some]

theorem execChkLen_of_reads {b2 : Byte} (h2 : r.B[2]? = some b2) :
    execChkLen s = raiseIf (r.n != declaredLen b2) .lengthMismatch s r stChkClose := by
  rw [execChkLen, withRun_some _ _ _ hrun, h2, readSeq_some]

theorem execChkClose_of_reads {b : Byte} (hb : r.B[r.B.length - 1]? = some b) :
    execChkClose s = raiseIf (b != flagClose) .badClosingMarker s r stChkCrc := by
  rw [execChkClose, withRun_some _ _ _ hrun, Run.n, hb, readSeq_some]

theorem execChkCrc_of_reads {lo hi : Byte} (hlen : 5 ≤ r.B.length) (hlo : r.B[r.B.length - 3]? = some lo)
    (hhi : r.B[r.B.length - 2]? = some hi) :
    execChkCrc s =
      raiseIf (crc16 ((r.B.take (r.B.length - 4)).drop 1) != hi ++ lo) .crcMismatch s r stChkModel := by
  have hrange : crcRange r.B = some ((r.B.take (r.B.length - 4)).drop 1) := slice_of_le (by omega) (by omega)
  have hfcs : storedCrc r.B = some (hi ++ lo) :=
    le16_of_getElem? hlo (by rwa [show r.B.length - 3 + 1 = r.B.length - 2 by omega])
  rw [execChkCrc, withRun_some _ _ _ hrun, hrange, readSeq_some, hfcs, readSeq_some]

theorem execChkModel_of_length (hlen : 21 ≤ r.B.length) :
    execChkModel s = advance s { r with warn := (r.B.drop 16).take 5 != modelId } stChkKey := by
  have hfield : modelField r.B = some ((r.B.drop 16).take 5) := by
    rw [modelField, slice_of_le (by omega) hlen, List.drop_take]
  rw [execChkModel, withRun_some _ _ _ hrun, hfield, readSeq_some, modelWarning]

theorem execChkKey_of_no_key (hkey : s.key_valid = false) : execChkKey s = raise s r .keyNotLoaded := by
  rw [execChkKey, withRun_some _ _ _ hrun, hkey, Bool.not_false, raiseIf_true]

theorem execChkKey_of_key (hkey : s.key_valid = true) : execChkKey s = advance s r stNonce := by
  rw [execChkKey, withRun_some _ _ _ hrun, hkey, Bool.not_true, raiseIf_false]

theorem execNonce_of_nonce {nb : Vector Byte 16} (hnb : nonceOf r.B = some nb) :
    execNonce s = advance s { r with NB := nb } stCtr := by
  rw [execNonce, withRun_some _ _ _ hrun, hnb, readSeq_some]

theorem execCtr_of_length (hlen : 33 ≤ r.B.length) :
    execCtr s = advance s
      { r with PB := ctrCrypt (blockOf s.KEY) (blockOf r.NB) ((r.B.take (r.B.length - 3)).drop 30) } stInteg := by
  have hcipher : ciphertext r.B = some ((r.B.take (r.B.length - 3)).drop 30) :=
    slice_of_le (by simp only [Config.hdrLen]; omega) (by omega)
  rw [execCtr, withRun_some _ _ _ hrun, hcipher, readSeq_some]

theorem execExtract_of_some {regs : Vector Word 8} (hregs : extractRegs r.PB = some regs) :
    execExtract s = advance s { r with x := regs } stMapE := by
  rw [execExtract, withRun_some _ _ _ hrun, hregs]

theorem execExtract_of_none (hregs : extractRegs r.PB = none) :
    execExtract s = raise s r .extractionOutOfBounds := by
  rw [execExtract, withRun_some _ _ _ hrun, hregs]

end

/-! ### Bytes of a frame as the reference reads them -/

/-- That a byte of the frame is not `e`, as the machine and as the reference test it. -/
theorem bne_iff_getElem?_ne {B : List Byte} {i : Nat} {b e : Byte} (h : B[i]? = some b) :
    (b != e) = true ↔ B[i]? ≠ some e := by
  rw [h, bne_iff_ne, Ne, Ne, Option.some_inj]

/-- The stored CRC, byte by byte: the low byte stands first (R87). -/
theorem eq_append_bytes_iff (crc : BitVec 16) (hi lo : Byte) :
    crc = hi ++ lo ↔ lo = crc.setWidth 8 ∧ hi = (crc >>> 8).setWidth 8 := by
  have hcrc := crc.isLt
  have hhi := hi.isLt
  have hlo := lo.isLt
  simp only [BitVec.toNat_eq, toNat_byte_append, BitVec.toNat_setWidth, BitVec.toNat_ushiftRight,
    Nat.shiftRight_eq_div_pow]
  omega

/-- The nonce of a frame is the block that R89 lists. -/
theorem exists_nonceOf_eq {B : List Byte} (hlen : 33 ≤ B.length) :
    ∃ nb, nonceOf B = some nb ∧ blockOf nb = Ref.nonceBlock B := by
  obtain ⟨nb, hnb, htitle, hcounter, h12, h13, h14, h15⟩ := nonceOf_some (B := B) (by omega)
  refine ⟨nb, hnb, ?_⟩
  have hlast : wordOf nb[12] nb[13] nb[14] nb[15] = 0x00000002#32 := by
    rw [h12, h13, h14, h15]
    rfl
  simp only [Fin.forall_fin_succ, Fin.isValue, Fin.coe_ofNat_eq_mod, Nat.zero_mod, add_zero, Fin.val_succ,
    zero_add, Nat.reduceAdd, Fin.val_eq_zero, IsEmpty.forall_iff, and_true] at htitle hcounter
  simp [blockOf, Ref.nonceBlock, htitle, hcounter, hlast]

/-! ### How a run ends -/

/-- The run `r` on the state `s` ends within `k` micro-operations with the record `v`, and nothing else changes. -/
def EndsWith (k : Nat) (s : State) (r : Run) (v : ResultRecord) : Prop :=
  runToDone k { s with run := some r } = .next { s with run := none, res := v }

section
variable {k : Nat} {s : State} {r r' : Run} {v : ResultRecord} {c d : StageCode} {x : Exc}

theorem endsWith_done (hstage : r.stage = stDone) : EndsWith (k + 1) s r s.res := by
  rw [EndsWith, runToDone_succ k _ { s with run := none } r rfl (by rw [hstage, microOp_done])]
  exact runToDone_ended k _ rfl

theorem endsWith_advance (hstage : r.stage = c)
    (hop : microOp c { s with run := some r } = advance { s with run := some r } r' d)
    (hrest : EndsWith k s { r' with stage := d } v) : EndsWith (k + 1) s r v :=
  (runToDone_succ k _ _ r rfl (hstage ▸ hop)).trans hrest

theorem endsWith_raise (hstage : r.stage = c)
    (hop : microOp c { s with run := some r } = raise { s with run := some r } r x) :
    EndsWith (k + 2) s r (rejectRecord (excCode x) r.warn) :=
  (runToDone_succ (k + 1) _ _ r rfl (hstage ▸ hop)).trans
    (endsWith_done (s := { s with res := rejectRecord (excCode x) r.warn })
      (r := { r with code := excCode x, stage := stDone }) rfl)

/-- A check raises its error if its condition holds (R125). -/
theorem endsWith_raiseIf {b : Bool} {p : Prop} [Decidable p] (hstage : r.stage = c)
    (hop : microOp c { s with run := some r } = raiseIf b x { s with run := some r } r d) (hb : b = true ↔ p)
    (hrest : ¬ p → EndsWith (k + 1) s { r with stage := d } v) :
    EndsWith (k + 2) s r (if p then rejectRecord (excCode x) r.warn else v) := by
  by_cases hp : p
  · rw [if_pos hp]
    rw [hb.mpr hp] at hop
    exact endsWith_raise hstage hop
  · rw [if_neg hp]
    rw [Bool.eq_false_iff.mpr (mt hb.mp hp)] at hop
    exact endsWith_advance hstage hop (hrest hp)

theorem endsWith_publish (hstage : r.stage = stPublish) : EndsWith (k + 2) s r (readingRecord r) :=
  (runToDone_succ (k + 1) _ _ r rfl (hstage ▸ rfl)).trans
    (endsWith_done (s := { s with res := readingRecord r }) (r := { r with code := 0, stage := stDone }) rfl)

end

/-! ### The payload's positions -/

section
variable {k : Nat} {s : State} {r : Run} {v : ResultRecord}

/-- MAP_E, MAP_P, MAP_S and PUBLISH (R220, R222, R223, R227). -/
theorem endsWith_mapped (hstage : r.stage = stMapE) :
    EndsWith (k + 5) s r (readingRecord { r with
      e := Vector.ofFn fun i : Fin 4 => scaleEnergy r.x[i.val]
      p := Vector.ofFn fun j : Fin 4 => passPower r.x[4 + j.val]
      s := Vector.ofFn fun i : Fin 4 => decStr r.x[i.val] }) := by
  refine endsWith_advance hstage rfl ?_
  refine endsWith_advance rfl rfl ?_
  refine endsWith_advance rfl rfl ?_
  exact endsWith_publish rfl

/-- The registers that EXTRACT reads are mapped and published together (R211, R227). -/
theorem endsWith_extract_of_some {regs : Vector Word 8} (hstage : r.stage = stExtract)
    (hregs : extractRegs r.PB = some regs) : EndsWith (k + 6) s r
      { res_valid := true, res_code := 0, res_warn := r.warn, rd_valid := true
        e := Vector.ofFn fun i : Fin 4 => scaleEnergy regs[i.val]
        p := Vector.ofFn fun i : Fin 4 => passPower regs[4 + i.val]
        s_len := Vector.ofFn fun i : Fin 4 => (decStr regs[i.val]).len
        s_chr := Vector.ofFn fun i : Fin 4 => (decStr regs[i.val]).chr } := by
  have hmapped := endsWith_mapped (k := k) (s := s) (r := { r with x := regs, stage := stMapE }) rfl
  simpa [readingRecord] using endsWith_advance hstage (execExtract_of_some rfl hregs) hmapped

theorem endsWith_extract_of_none (hstage : r.stage = stExtract) (hregs : extractRegs r.PB = none) :
    EndsWith (k + 2) s r (rejectRecord 7 r.warn) :=
  endsWith_raise (x := .extractionOutOfBounds) hstage (execExtract_of_none rfl hregs)

theorem endsWith_integ (hstage : r.stage = stInteg)
    (hrest : EndsWith (k + 1) s { r with stage := stExtract } v) :
    EndsWith (k + 2) s r (if markersOk r.PB then v else rejectRecord 6 r.warn) := by
  rw [← ite_not]
  exact endsWith_raiseIf (x := .integrityCheckFailed) hstage rfl (by simp) fun _ => hrest

end

/-! ### The frame's positions -/

/-- Every run at position `c` on the frame `B` with the warning `w` ends within `k` micro-operations with `v`. -/
def EndsFrom (k : Nat) (s : State) (c : StageCode) (B : List Byte) (w : Bool) (v : ResultRecord) : Prop :=
  ∀ r : Run, r.stage = c → r.B = B → r.warn = w → EndsWith k s r v

section
variable {k : Nat} {s : State} {B : List Byte} {w : Bool} {v : ResultRecord}

/-- A check puts its own rejection in front of the record of the positions after it (R125, R242). -/
theorem endsFrom_raiseIf {c d : StageCode} {x : Exc} {b : Bool} {p : Prop} [Decidable p]
    (hop : ∀ r : Run, r.B = B → microOp c { s with run := some r } = raiseIf b x { s with run := some r } r d)
    (hb : b = true ↔ p) (hrest : ¬ p → EndsFrom (k + 1) s d B w v) :
    EndsFrom (k + 2) s c B w (if p then rejectRecord (excCode x) w else v) := by
  rintro r hstage hB rfl
  exact endsWith_raiseIf hstage (hop r hB) hb fun hp => hrest hp _ rfl hB rfl

theorem endsFrom_chkMin (hrest : 33 ≤ B.length → EndsFrom (k + 1) s stChkOpen B w v) :
    EndsFrom (k + 2) s stChkMin B w (if B.length < 33 then rejectRecord 1 w else v) := by
  refine endsFrom_raiseIf (x := .tooShort) ?_ decide_eq_true_iff fun h => hrest (Nat.not_lt.mp h)
  rintro r rfl
  rfl

section
variable (hlen : 33 ≤ B.length)
include hlen

theorem endsFrom_chkOpen (hrest : EndsFrom (k + 1) s stChkLen B w v) :
    EndsFrom (k + 2) s stChkOpen B w
      (if B[0]? ≠ some 0x7E#8 ∨ B[1]? ≠ some 0xA0#8 then rejectRecord 2 w else v) := by
  have h0 : B[0]? = some B[0] := List.getElem?_eq_getElem (by omega)
  have h1 : B[1]? = some B[1] := List.getElem?_eq_getElem (by omega)
  refine endsFrom_raiseIf (x := .badOpeningMarker) (b := B[0] != flagOpen || B[1] != fmtByte) ?_ ?_ fun _ => hrest
  · rintro r rfl
    exact execChkOpen_of_reads rfl h0 h1
  · rw [Bool.or_eq_true]
    exact or_congr (bne_iff_getElem?_ne h0) (bne_iff_getElem?_ne h1)

theorem endsFrom_chkLen (hrest : EndsFrom (k + 1) s stChkClose B w v) :
    EndsFrom (k + 2) s stChkLen B w
      (if B[2]?.map (fun b => b.toNat + 2) ≠ some B.length then rejectRecord 3 w else v) := by
  have h2 : B[2]? = some B[2] := List.getElem?_eq_getElem (by omega)
  refine endsFrom_raiseIf (x := .lengthMismatch) (b := B.length != declaredLen B[2]) ?_ ?_ fun _ => hrest
  · rintro r rfl
    exact execChkLen_of_reads rfl h2
  · rw [h2, Option.map_some, bne_iff_ne, ne_comm, Ne, Ne, Option.some_inj]
    rfl

theorem endsFrom_chkClose (hrest : EndsFrom (k + 1) s stChkCrc B w v) :
    EndsFrom (k + 2) s stChkClose B w (if B[B.length - 1]? ≠ some 0x7E#8 then rejectRecord 4 w else v) := by
  have hlast : B[B.length - 1]? = some B[B.length - 1] := List.getElem?_eq_getElem (by omega)
  refine endsFrom_raiseIf (x := .badClosingMarker) ?_ (bne_iff_getElem?_ne hlast) fun _ => hrest
  rintro r rfl
  exact execChkClose_of_reads rfl hlast

theorem endsFrom_chkCrc (hrest : EndsFrom (k + 1) s stChkModel B w v) :
    EndsFrom (k + 2) s stChkCrc B w
      (if B[B.length - 3]? ≠ some ((crc16 ((B.take (B.length - 4)).drop 1)).setWidth 8) ∨
          B[B.length - 2]? ≠ some ((crc16 ((B.take (B.length - 4)).drop 1) >>> 8).setWidth 8)
        then rejectRecord 5 w else v) := by
  have hlo : B[B.length - 3]? = some B[B.length - 3] := List.getElem?_eq_getElem (by omega)
  have hhi : B[B.length - 2]? = some B[B.length - 2] := List.getElem?_eq_getElem (by omega)
  refine endsFrom_raiseIf (x := .crcMismatch)
    (b := crc16 ((B.take (B.length - 4)).drop 1) != B[B.length - 2] ++ B[B.length - 3]) ?_ ?_ fun _ => hrest
  · rintro r rfl
    exact execChkCrc_of_reads rfl (by omega) hlo hhi
  · rw [bne_iff_ne, Ne, eq_append_bytes_iff, not_and_or, hlo, hhi, Ne, Ne, Option.some_inj, Option.some_inj]

theorem endsFrom_chkModel (hrest : EndsFrom k s stChkKey B
      ((B.drop 16).take 5 != [0x4B#8, 0x68#8, 0x75#8, 0x36#8, 0x86#8]) v) :
    EndsFrom (k + 1) s stChkModel B w v := by
  rintro r hstage rfl rfl
  exact endsWith_advance hstage (execChkModel_of_length rfl (by omega)) (hrest _ rfl rfl rfl)

/-- NONCE and CTR make the payload from the nonce block of R89 and the ciphertext (R171, R174). -/
theorem endsFrom_nonce_ctr (hrest : ∀ r, r.stage = stInteg →
      r.PB = ctrCrypt (blockOf s.KEY) (Ref.nonceBlock B) ((B.take (B.length - 3)).drop 30) → r.warn = w →
        EndsWith k s r v) :
    EndsFrom (k + 2) s stNonce B w v := by
  rintro r hstage rfl rfl
  obtain ⟨nb, hnb, hblock⟩ := exists_nonceOf_eq hlen
  refine endsWith_advance hstage (execNonce_of_nonce rfl hnb) ?_
  refine endsWith_advance rfl (execCtr_of_length rfl hlen) (hrest _ rfl ?_ rfl)
  rw [← hblock]

end

theorem endsFrom_chkKey_of_no_key (hkey : s.key_valid = false) :
    EndsFrom (k + 2) s stChkKey B w (rejectRecord 8 w) := by
  rintro r hstage rfl rfl
  exact endsWith_raise (x := .keyNotLoaded) hstage (execChkKey_of_no_key rfl hkey)

theorem endsFrom_chkKey_of_key (hkey : s.key_valid = true) (hrest : EndsFrom k s stNonce B w v) :
    EndsFrom (k + 1) s stChkKey B w v := by
  rintro r hstage rfl rfl
  exact endsWith_advance hstage (execChkKey_of_key rfl hkey) (hrest _ rfl rfl rfl)

end

/-! ### The whole run -/

theorem loadedKey_of_no_key {s : State} (h : s.key_valid = false) : Ref.loadedKey s = none := by
  simp [Ref.loadedKey, h]

theorem loadedKey_of_key {s : State} (h : s.key_valid = true) : Ref.loadedKey s = some (blockOf s.KEY) := by
  simp [Ref.loadedKey, h]

/-- The sequencer's run on the frame `B` ends with the record of the reference, position by position. -/
theorem endsFrom_frameRecord (s : State) (B : List Byte) :
    EndsFrom runLength s stChkMin B false (Ref.frameRecord B (Ref.loadedKey s)) := by
  unfold Ref.frameRecord
  refine endsFrom_chkMin fun hlen => ?_
  refine endsFrom_chkOpen hlen ?_
  refine endsFrom_chkLen hlen ?_
  refine endsFrom_chkClose hlen ?_
  refine endsFrom_chkCrc hlen ?_
  refine endsFrom_chkModel hlen ?_
  cases hkey : s.key_valid with
  | false =>
    rw [loadedKey_of_no_key hkey]
    exact endsFrom_chkKey_of_no_key hkey
  | true =>
    rw [loadedKey_of_key hkey]
    refine endsFrom_chkKey_of_key hkey <| endsFrom_nonce_ctr hlen fun r hstage hPB hwarn => ?_
    dsimp only
    rw [← hPB, ← hwarn]
    refine endsWith_integ hstage ?_
    split
    next hregs => exact endsWith_extract_of_none rfl hregs
    next regs hregs => exact endsWith_extract_of_some rfl hregs

theorem runFrame_eq (s : State) (B : List Byte) : runFrame s B = .next { s with
    FB := Memory.empty, len := 0, run := none, res := Ref.frameRecord B (Ref.loadedKey s) } :=
  endsFrom_frameRecord (openRun s B) B (startRun B) rfl rfl rfl

theorem execPoll_frameRecord {s : State} {now : Time} (h : Ref.flushes s now) :
    execPoll now s = .next { s with
      FB := Memory.empty, len := 0, run := none
      res := Ref.frameRecord (Memory.readBytes s.FB 0 s.len.val) (Ref.loadedKey s) } :=
  (execPoll_of_flushes h).trans (runFrame_eq s _)

/-- Settles O21: the run of the flush ends with the record of the reference. -/
theorem pollDeliversFrameRecord : Obligations.PollDeliversFrameRecord := fun _ _ => execPoll_frameRecord

/-! ### POLL without a flush -/

/-- Settles O18: either condition of the flush fails. -/
theorem pollWithoutFrame : Obligations.PollWithoutFrame := by
  intro now s h
  refine execPoll_of_not_flushes fun ⟨hlen, hsilence⟩ => ?_
  obtain hempty | hshort := h
  · exact absurd hempty (Nat.ne_of_gt hlen)
  · exact absurd hsilence (Nat.not_lt.mpr hshort)

/-- Settles O19: no silence is above the largest timeout. -/
theorem largestTimeoutNeverFlushes : Obligations.LargestTimeoutNeverFlushes := by
  intro now s hmax
  refine pollWithoutFrame now s (.inr ?_)
  rw [hmax]
  exact Nat.le_pred_of_lt (Nat.mod_lt _ (by decide))

/-! ### RESET, KEYLOAD, SETTO, APPEND -/

theorem eq_ofNat_of_toNat_eq {n m : Nat} {b : BitVec n} (h : b.toNat = m % 2 ^ n) : b = BitVec.ofNat n m :=
  BitVec.eq_of_toNat_eq (h.trans (BitVec.toNat_ofNat m n).symm)

theorem applyReset_congr {s s' : State} (h : s'.port = s.port) : applyReset s' = applyReset s := by
  rw [applyReset, applyReset, h]

/-- Settles O13: the fields of the reset state, with the host events as they were. -/
theorem resetCommandEffect : Obligations.ResetCommandEffect := by
  refine ⟨fun w h => decodeCmd_op1 w (opField_eq_of_toNat_mod h), fun s => ?_⟩
  exact ⟨applyReset s, rfl, rfl, rfl, rfl, rfl, rfl, rfl, rfl, rfl,
    fun _ hport => congrArg Host.Outcome.next (applyReset_congr hport)⟩

theorem execKeyload_first (k : Vector Byte 16) {s : State} (hkey : s.key_valid = false) :
    execKeyload k s = .next (emitEmpty { s with KEY := k, key_valid := true }) :=
  if_neg (Bool.eq_false_iff.mp hkey)

theorem execKeyload_later (k : Vector Byte 16) {s : State} (hkey : s.key_valid = true) :
    execKeyload k s = .next (emitEmpty s) :=
  if_pos hkey

/-- Settles O14: the two branches of KEYLOAD. -/
theorem keyloadEffect : Obligations.KeyloadEffect := by
  refine ⟨fun w => ?_, fun k s => ⟨execKeyload_first k, execKeyload_later k⟩⟩
  obtain ⟨-, -, hkeyload, -⟩ := commandOperandBits w
  exact hkeyload

/-- Settles O15: the operand is the low 32 bits of the argument; SETTO writes it. -/
theorem settoEffect : Obligations.SettoEffect := by
  refine ⟨fun w hop => ?_, fun _ _ => rfl⟩
  obtain ⟨-, -, -, hsetto, -⟩ := commandOperandBits w
  obtain ⟨t, hdecode, ht⟩ := hsetto hop
  rw [hdecode, eq_ofNat_of_toNat_eq ht]

/-- Settles O16: APPEND in its two cases, and what the buffer reads after a write. -/
theorem appendEffect : Obligations.AppendEffect := by
  refine ⟨fun w hop => ?decodes, fun b now s => ⟨fun hlen => ?stores, execAppend_drops b now⟩⟩
  case decodes =>
    obtain ⟨-, -, -, -, happend, -⟩ := commandOperandBits w
    obtain ⟨b, now, hdecode, hb, hnow⟩ := happend hop
    obtain rfl : now = BitVec.ofNat 32 (w.toNat / 2 ^ 3) := eq_ofNat_of_toNat_eq hnow
    rw [hdecode, eq_ofNat_of_toNat_eq hb]
  case stores =>
    obtain ⟨t, ht, hFB, hl, hlast, hto, hKEY, hkv, hrun, hres, hport⟩ := execAppend_stores b now hlen
    refine ⟨t, ht, fun a ha => ?_, by rw [appendIndex_some hlen]; rfl, hl, hlast, hres, hto, hKEY, hkv, hrun, hport⟩
    rw [appendIndex_some hlen] at ha
    cases ha
    rw [hFB]
    exact ⟨rfl, Memory.read_write_same _ _ _, fun a' => Memory.read_write_other _ _ _ _⟩

/-! ### Saturation -/

/-- A frame that fills the buffer is rejected by its first two bytes, or else because the length byte reaches 257 only
(R86, R142). -/
theorem frameRecord_of_full {B : List Byte} (hfull : 258 ≤ B.length) (key : Option AesBlock) :
    Ref.frameRecord B key =
      if B[0]? ≠ some 0x7E#8 ∨ B[1]? ≠ some 0xA0#8 then rejectRecord 2 false else rejectRecord 3 false := by
  have hdeclared : B[2]?.map (fun b => b.toNat + 2) ≠ some B.length := by
    intro h
    obtain ⟨b, -, hb⟩ := Option.map_eq_some_iff.mp h
    have := b.isLt
    omega
  unfold Ref.frameRecord
  dsimp only
  rw [if_neg (Nat.not_lt.mpr (by omega)), if_pos hdeclared]

/-- The bytes that the full buffer drops change no record. -/
theorem frameRecord_take_cap (D : List Byte) (key : Option AesBlock) :
    Ref.frameRecord (D.take 258) key = Ref.frameRecord D key := by
  by_cases hfit : D.length ≤ 258
  · rw [List.take_of_length_le hfit]
  · have hD : 258 ≤ D.length := by omega
    rw [frameRecord_of_full hD, frameRecord_of_full (by rw [List.length_take]; omega)]
    simp

theorem frameRecord_code_of_full {B : List Byte} (hfull : 258 ≤ B.length) (key : Option AesBlock) :
    (Ref.frameRecord B key).res_code = 2 ∨ (Ref.frameRecord B key).res_code = 3 := by
  rw [frameRecord_of_full hfull]
  split
  · exact .inl rfl
  · exact .inr rfl

theorem execAll_append {is js : List Instr} {s t : State} (h : Ref.execAll is s = .next t) :
    Ref.execAll (is ++ js) s = Ref.execAll js t := by
  induction is generalizing s with
  | nil => cases h; rfl
  | cons i is ih =>
    rw [Ref.execAll] at h
    rw [List.cons_append, Ref.execAll]
    cases hi : exec i s with
    | next u => rw [hi] at h; exact ih h
    | fault f => rw [hi] at h; cases h
    | refused f => rw [hi] at h; cases h

/-- From an empty buffer the frame that APPENDs collect is their stream up to the capacity (R51, R123). -/
theorem Appended.readBytes_eq {bs : List (Byte × Time)} {s t : State} (h : Appended bs s t) (hempty : s.len.val = 0) :
    Memory.readBytes t.FB 0 t.len.val = (bs.map Prod.fst).take 258 := by
  have hlen := h.len_eq
  refine List.ext_getElem ?_ fun i hi hi' => ?_
  · rw [Memory.readBytes_length, List.length_take, List.length_map]
    omega
  · rw [List.length_take, List.length_map] at hi'
    have hread := h.read_stored i (by omega) (by omega)
    rw [hempty, Nat.zero_add] at hread
    simp [Memory.readBytes, hread]

theorem Appended.loadedKey_eq {bs : List (Byte × Time)} {s t : State} (h : Appended bs s t) :
    Ref.loadedKey t = Ref.loadedKey s := by
  rw [h.frame]
  rfl

/-- A flush after APPENDs to an empty buffer leaves of them the time of the last. -/
theorem Appended.flushed_eq {bs : List (Byte × Time)} {s t : State} (h : Appended bs s t) (hempty : s.len.val = 0)
    (v : ResultRecord) : ({ t with FB := Memory.empty, len := 0, run := none, res := v } : State) =
      { s with FB := Memory.empty, last := t.last, run := none, res := v } := by
  have hlen : s.len = 0 := Fin.ext hempty
  rw [h.frame, hlen]

/-- Settles O27: the flush sees the stream up to the capacity, and what lies beyond changes no record. -/
theorem saturationIsUnobservable : Obligations.SaturationIsUnobservable := by
  intro bs b u now s hempty hsilence
  refine ⟨_, rfl, ?_, fun hlong => frameRecord_code_of_full (by simpa using Nat.le_succ_of_le hlong) _⟩
  obtain ⟨t, ht, hall⟩ := execAll_appended (bs ++ [(b, u)]) s
  have hlast : t.last = u := by simpa using hall.last_eq
  have hflush : Ref.flushes t now := by
    refine ⟨?_, ?_⟩
    · have hlen := hall.len_eq
      rw [List.length_append, List.length_singleton] at hlen
      omega
    · rw [hlast, show t.idle_timeout = s.idle_timeout by rw [hall.frame]]
      exact hsilence
  have hstream : (bs.map fun p => Instr.append p.1 p.2) ++ [.append b u, .poll now] =
      ((bs ++ [(b, u)]).map fun p => .append p.1 p.2) ++ [.poll now] := by simp
  have hpoll : exec (.poll now) t = _ := execPoll_frameRecord hflush
  rw [hstream, execAll_append ht, Ref.execAll, hpoll, hall.readBytes_eq hempty, frameRecord_take_cap, hall.loadedKey_eq,
    hall.flushed_eq hempty, hlast, List.map_append]
  rfl

end Sys2Proof.Machine

/-! PROOFS, family 41_frame_validator: the validator's micro-operations CHK_MIN, CHK_OPEN, CHK_LEN, CHK_CLOSE and CHK_MODEL
(R140 to R145), and that a rejection of the validator does not depend on the key (R146, E2 of 95_test_vectors.md). -/

namespace Sys2Proof.Machine

/-! ### The checks of the length validator -/

/-- Both outcomes of a check (R125, R243), each under the proposition that a rule gives for it. -/
theorem raiseIf_outcomes {b : Bool} {p q : Prop} (hraise : p → b = true) (hpass : q → b = false) (x : Exc) (s : State)
    (r : Run) (d : StageCode) :
    (p → raiseIf b x s r d = .next { s with
      run := some { r with code := excCode x, stage := stDone }, res := rejectRecord (excCode x) r.warn }) ∧
    (q → raiseIf b x s r d = .next { s with run := some { r with stage := d } }) := by
  refine ⟨fun hp => ?raises, fun hq => ?passes⟩
  case raises => rw [hraise hp, raiseIf_true, raise]
  case passes => rw [hpass hq, raiseIf_false, advance]

/-- Settles O29: the condition of the check is the comparison of the length with 33. -/
theorem chkMinEffect : Obligations.ChkMinEffect := by
  refine ⟨rfl, fun s r hrun => ?_⟩
  have hop : exec .chkMin s = raiseIf (decide (r.B.length < 33)) .tooShort s r stChkOpen := withRun_some _ _ _ hrun
  rw [hop]
  exact raiseIf_outcomes decide_eq_true (fun h => decide_eq_false (Nat.not_lt.mpr h)) .tooShort s r stChkOpen

/-- Settles O30: the check raises if one of its two comparisons fails. -/
theorem chkOpenEffect : Obligations.ChkOpenEffect := by
  refine ⟨rfl, fun s r b0 b1 hrun h0 h1 => ?_⟩
  have hop : exec .chkOpen s = _ := execChkOpen_of_reads hrun h0 h1
  rw [hop]
  refine raiseIf_outcomes (fun h => ?_) ?_ .badOpeningMarker s r stChkLen
  · rw [Bool.or_eq_true, bne_iff_ne, bne_iff_ne]
    exact h
  · rintro ⟨rfl, rfl⟩
    rfl

/-- Settles O31: the declared length is a sum of natural numbers. -/
theorem chkLenEffect : Obligations.ChkLenEffect := by
  refine ⟨rfl, fun s r b2 hrun h2 => ?_⟩
  have hop : exec .chkLen s = _ := execChkLen_of_reads hrun h2
  rw [hop]
  exact raiseIf_outcomes bne_iff_ne.mpr (bne_eq_false_iff_eq.mpr ·) .lengthMismatch s r stChkClose

/-- Settles O32: the check compares the last byte alone. -/
theorem chkCloseEffect : Obligations.ChkCloseEffect := by
  refine ⟨rfl, fun s r b hrun hb => ?_⟩
  have hop : exec .chkClose s = _ := execChkClose_of_reads hrun hb
  rw [hop]
  exact raiseIf_outcomes bne_iff_ne.mpr (bne_eq_false_iff_eq.mpr ·) .badClosingMarker s r stChkCrc

/-! ### The model identifier -/

/-- A list stands in `B` from `a` on exactly when each of its bytes stands at its place. -/
theorem take_drop_eq_iff_getElem? (B l : List Byte) (a : Nat) :
    (B.drop a).take l.length = l ↔ ∀ i (h : i < l.length), B[a + i]? = some l[i] := by
  rw [eq_comm, ← List.prefix_iff_eq_take, List.prefix_iff_getElem?]
  simp only [List.getElem?_drop]

/-- The five bytes that CHK_MODEL compares, one by one (R145). -/
theorem take_drop_eq_modelId_iff (B : List Byte) : (B.drop 16).take 5 = modelId ↔
    B[16]? = some 0x4B ∧ B[17]? = some 0x68 ∧ B[18]? = some 0x75 ∧ B[19]? = some 0x36 ∧ B[20]? = some 0x86 := by
  refine (take_drop_eq_iff_getElem? B modelId 16).trans ⟨fun h => ?_, ?_⟩
  · exact ⟨h 0 (by decide), h 1 (by decide), h 2 (by decide), h 3 (by decide), h 4 (by decide)⟩
  · rintro ⟨h0, h1, h2, h3, h4⟩ i hi
    match i, hi with
    | 0, _ => exact h0
    | 1, _ => exact h1
    | 2, _ => exact h2
    | 3, _ => exact h3
    | 4, _ => exact h4

/-- Settles O34: CHK_MODEL only moves on, with the comparison of the five bytes in `warn`. -/
theorem chkModelEffect : Obligations.ChkModelEffect := by
  refine ⟨rfl, fun s r hrun hlen => ⟨_, execChkModel_of_length hrun hlen, ?_⟩⟩
  rw [bne_eq_false_iff_eq, take_drop_eq_modelId_iff]

/-! ### The validator and the key -/

/-- Codes 1 to 5, those of the validator (R240). -/
abbrev IsValidatorCode (c : ResCode) : Prop := 1 ≤ c.toNat ∧ c.toNat ≤ 5

/-- The validator's checks come first and read the frame alone (R146, R242): either the record is one rejection for every
key, or the checks have passed and the record is one of the positions after them, whatever the key. -/
theorem frameRecord_validator_verdict (B : List Byte) :
    (∃ c, ∀ key, Ref.frameRecord B key = rejectRecord c false) ∨
      ∀ key, (Ref.frameRecord B key).res_valid = true ∧ ¬ IsValidatorCode (Ref.frameRecord B key).res_code := by
  unfold Ref.frameRecord
  dsimp only
  split
  next => exact .inl ⟨1, fun _ => rfl⟩
  split
  next => exact .inl ⟨2, fun _ => rfl⟩
  split
  next => exact .inl ⟨3, fun _ => rfl⟩
  split
  next => exact .inl ⟨4, fun _ => rfl⟩
  split
  next => exact .inl ⟨5, fun _ => rfl⟩
  refine .inr fun key => ?_
  cases key with
  | none => exact ⟨rfl, show ¬ IsValidatorCode 8 by decide⟩
  | some k =>
    dsimp only
    split
    · split
      · exact ⟨rfl, show ¬ IsValidatorCode 7 by decide⟩
      · exact ⟨rfl, show ¬ IsValidatorCode 0 by decide⟩
    · exact ⟨rfl, show ¬ IsValidatorCode 6 by decide⟩

/-- Settles O24: the flush depends on no key, and its record on the key only behind the validator's checks. -/
theorem validatorIgnoresTheKey : Obligations.ValidatorIgnoresTheKey := by
  intro now s kv key t ht hrejects
  by_cases hflush : Ref.flushes s now
  case neg =>
    rw [show exec (.poll now) s = _ from execPoll_of_not_flushes hflush] at ht
    cases ht
    exact ⟨_, execPoll_of_not_flushes hflush, rfl⟩
  case pos =>
    rw [show exec (.poll now) s = _ from execPoll_frameRecord hflush] at ht
    cases ht
    refine ⟨_, execPoll_frameRecord hflush, ?_⟩
    obtain ⟨c, hreject⟩ | hpasses := frameRecord_validator_verdict (Memory.readBytes s.FB 0 s.len.val)
    · exact (hreject _).trans (hreject _).symm
    · obtain ⟨hvalid, hcode⟩ := hpasses (Ref.loadedKey s)
      obtain hnone | hvalidator := hrejects
      · exact absurd (hvalid.symm.trans hnone) (by decide)
      · exact absurd hvalidator hcode

end Sys2Proof.Machine

/-! PROOFS, family 42_crc16: the micro-operation CHK_CRC (R163), what it does not cover (R164), and that the two forms of
the CRC agree (R161, R162). The idea of the last: the register of R162 is at every step the register of R161 with its bits
in reverse order. -/

namespace Sys2Proof.Machine

/-! ### CHK_CRC -/

/-- Settles O33: the check compares the CRC with the two stored bytes put together. -/
theorem chkCrcEffect : Obligations.ChkCrcEffect := by
  refine ⟨rfl, fun s r lo hi hrun hlen hlo hhi => ?_⟩
  have hop : exec .chkCrc s = _ := execChkCrc_of_reads hrun hlen hlo hhi
  have hrange : (r.B.take (r.B.length - 4)).drop 1 = (r.B.drop 1).take (r.B.length - 5) := List.drop_take
  rw [hop, hrange, ← toNat_byte_append, Ne, ← BitVec.toNat_eq]
  exact raiseIf_outcomes (fun h => bne_iff_ne.mpr h) (bne_eq_false_iff_eq.mpr ·) .crcMismatch s r stChkModel

/-- A check has passed exactly when the sequencer stands at the next position, which is not DONE. -/
theorem raiseIf_eq_advance_iff {b : Bool} {x : Exc} {s : State} {r : Run} {c : StageCode} (hc : c ≠ stDone) :
    raiseIf b x s r c = .next { s with run := some { r with stage := c } } ↔ b = false := by
  refine ⟨fun h => ?passed, fun hb => by rw [hb, raiseIf_false, advance]⟩
  obtain ⟨-, hraise⟩ | ⟨hb, -⟩ := raiseIf_next h
  · have hrun := congrArg State.run (raise_next hraise)
    exact absurd (congrArg Run.stage (Option.some.inj hrun)) hc
  · exact hb

theorem execChkCrc_passes_iff {s : State} {r : Run} {lo hi : Byte} (hrun : s.run = some r) (hlen : 5 ≤ r.B.length)
    (hlo : r.B[r.B.length - 3]? = some lo) (hhi : r.B[r.B.length - 2]? = some hi) :
    execChkCrc s = .next { s with run := some { r with stage := stChkModel } } ↔
      crc16 ((r.B.take (r.B.length - 4)).drop 1) = hi ++ lo := by
  rw [execChkCrc_of_reads hrun hlen hlo hhi, raiseIf_eq_advance_iff (by decide), bne_eq_false_iff_eq]

/-- Settles O49: the byte replaced lies behind the covered range and in front of the stored CRC. -/
theorem lastCipherByteIsUncovered : Obligations.LastCipherByteIsUncovered := by
  intro s r b hrun hlen
  obtain ⟨lo, hlo⟩ : ∃ lo, r.B[r.B.length - 3]? = some lo := ⟨_, List.getElem?_eq_getElem (by omega)⟩
  obtain ⟨hi, hhi⟩ : ∃ hi, r.B[r.B.length - 2]? = some hi := ⟨_, List.getElem?_eq_getElem (by omega)⟩
  have hlen' : (r.B.set (r.B.length - 4) b).length = r.B.length := List.length_set
  have hlo' : (r.B.set (r.B.length - 4) b)[r.B.length - 3]? = some lo := by
    rwa [List.getElem?_set_ne (by omega)]
  have hhi' : (r.B.set (r.B.length - 4) b)[r.B.length - 2]? = some hi := by
    rwa [List.getElem?_set_ne (by omega)]
  have hcovered : (r.B.set (r.B.length - 4) b).take (r.B.length - 4) = r.B.take (r.B.length - 4) :=
    List.take_set_of_le (Nat.le_refl _)
  have hold := execChkCrc_passes_iff hrun (by omega) hlo hhi
  have hnew := execChkCrc_passes_iff (s := { s with run := some { r with B := r.B.set (r.B.length - 4) b } }) rfl
    (by dsimp only; omega) (by rwa [hlen']) (by rwa [hlen'])
  rw [hlen', hcovered] at hnew
  exact hold.trans hnew.symm

/-! ### Bits in reverse order -/

/-- The reference's `rev` is the library's `BitVec.reverse`. -/
theorem rev_eq_reverse {n : Nat} (v : BitVec n) : Ref.rev v = v.reverse := by
  refine BitVec.eq_of_getLsbD_eq fun i hi => ?_
  rw [Ref.rev, BitVec.getLsbD_ofFnLE, dif_pos hi, BitVec.getLsbD_reverse]

theorem reverse_xor {n : Nat} (v w : BitVec n) : (v ^^^ w).reverse = v.reverse ^^^ w.reverse := by
  refine BitVec.eq_of_getLsbD_eq fun i _ => ?_
  simp only [BitVec.getLsbD_reverse, BitVec.getMsbD_xor, BitVec.getLsbD_xor]

theorem reverse_shiftLeft {n : Nat} (v : BitVec n) (k : Nat) : (v <<< k).reverse = v.reverse >>> k := by
  refine BitVec.eq_of_getLsbD_eq fun i _ => ?_
  rw [BitVec.getLsbD_reverse, BitVec.getMsbD_shiftLeft, BitVec.getLsbD_ushiftRight, BitVec.getLsbD_reverse, Nat.add_comm]

/-- A byte reversed into the high half of a register and the byte itself in the low half (R161, R162). -/
theorem reverse_reverse_byte_shiftLeft (b : Byte) : (b.reverse.setWidth 16 <<< 8).reverse = b.setWidth 16 := by
  refine BitVec.eq_of_getLsbD_eq fun i hi => ?_
  rw [BitVec.getLsbD_reverse, BitVec.getMsbD_shiftLeft, BitVec.getMsbD_setWidth, BitVec.getMsbD_reverse,
    BitVec.getLsbD_setWidth]
  simp [hi]

/-! ### The two forms of the CRC -/

/-- The bit that R161 tests is the one that R162 tests of the reversed register. -/
theorem and_msbMask_ne_zero_iff (c : BitVec 16) : c &&& 0x8000#16 ≠ 0 ↔ c.reverse.getLsbD 0 = true := by
  have hmask : (0x8000#16) = BitVec.twoPow 16 15 := rfl
  rw [BitVec.getLsbD_reverse, BitVec.getMsbD_eq_getLsbD, hmask, BitVec.and_twoPow]
  cases c.getLsbD 15 <;> decide

/-- The shift steps commute with the reversal; the two polynomials are each other's reversal (R162). -/
theorem crcBits_reverse (n : Nat) (c : BitVec 16) : crcBits n c.reverse = (Ref.msbSteps n c).reverse := by
  have hpoly : (0x8408#16) = (0x1021#16).reverse := by decide
  induction n generalizing c with
  | zero => rfl
  | succ n ih =>
    rw [crcBits, Ref.msbSteps, hpoly, ← reverse_shiftLeft, ← reverse_xor, ih, ih]
    simp only [and_msbMask_ne_zero_iff]
    split <;> rfl

theorem crcByte_reverse (c : BitVec 16) (b : Byte) :
    crcByte c.reverse b = (Ref.msbSteps 8 (c ^^^ ((Ref.rev b).setWidth 16 <<< 8))).reverse := by
  rw [crcByte, ← crcBits_reverse, reverse_xor, rev_eq_reverse, reverse_reverse_byte_shiftLeft]

theorem crcRegister_eq_foldl (c : BitVec 16) (D : List Byte) : crcRegister c D = D.foldl crcByte c := by
  induction D generalizing c with
  | nil => rfl
  | cons b D ih => exact ih _

/-- Settles O48: the machine's register starts as the reference's reversed and every byte keeps it so. -/
theorem crcFormsAgree : Obligations.CrcFormsAgree := by
  intro D
  have hstart : (0xFFFF#16) = (0xFFFF#16).reverse := by decide
  rw [crc16, crcRegister_eq_foldl, Ref.crcFromParameters, rev_eq_reverse]
  congr 1
  calc D.foldl crcByte 0xFFFF#16 = D.foldl crcByte (0xFFFF#16).reverse := by rw [← hstart]
    _ = _ := List.foldl_hom _ crcByte_reverse

end Sys2Proof.Machine

/-! PROOFS, family 43_decryptor: the micro-operations CHK_KEY, NONCE, CTR and INTEG (R170 to R176), that CTR is its own
inverse and malleable byte by byte (R174), and the counter block as a number (R173). -/

namespace Sys2Proof.Machine

/-! ### CHK_KEY and NONCE -/

/-- Settles O35: the condition of the check is that `key_valid` is 0. -/
theorem chkKeyEffect : Obligations.ChkKeyEffect :=
  ⟨rfl, fun _ _ hrun => ⟨execChkKey_of_no_key hrun, execChkKey_of_key hrun⟩⟩

/-- Settles O36: a snapshot of 30 bytes has every field of the nonce. -/
theorem nonceEffect : Obligations.NonceEffect := by
  refine ⟨rfl, fun s r hrun hlen => ?_⟩
  obtain ⟨nb, hnb, hbytes⟩ := nonceOf_some hlen
  exact ⟨nb, execNonce_of_nonce hrun hnb, hbytes⟩

/-! ### CTR -/

/-- The cipher blocks cover the ciphertext (R173). -/
theorem le_mul_blockCount (L : Nat) : L ≤ 16 * blockCount L := by
  rw [blockCount]
  omega

/-- Byte `u` of the payload is byte `u` of the ciphertext XOR byte `u mod 16` of keystream block `u div 16` (R174). -/
theorem ctrCrypt_getElem? (key nb : AesBlock) {C : List Byte} {u : Nat} (hu : u < C.length) :
    ∃ c ks, C[u]? = some c ∧ (ctrCrypt key nb C)[u]? = some (c ^^^ ks) ∧
      (keystreamBlock key nb (u / 16))[u % 16]? = some ks := by
  have hblock : u % 16 < (keystreamBlock key nb (u / 16)).length := by
    rw [keystreamBlock, blockBytes_length]
    exact Nat.mod_lt u (by decide)
  have hbyte : C[u]? = some C[u] := List.getElem?_eq_getElem hu
  have hks : (keystreamBlock key nb (u / 16))[u % 16]? = some _ := List.getElem?_eq_getElem hblock
  have hreach : u < 16 * blockCount C.length := Nat.lt_of_lt_of_le hu (le_mul_blockCount _)
  refine ⟨_, _, hbyte, ?_, hks⟩
  rw [ctrCrypt, xorBytes_getElem?, keystreamFrom_getElem? key nb 0 _ u hreach, Nat.zero_add, hbyte, hks]
  rfl

/-- Settles O37: the ciphertext is the snapshot's bytes from 30 on, and a counter block is NB with its last byte replaced. -/
theorem ctrEffect : Obligations.CtrEffect := by
  refine ⟨rfl, fun s r hrun hlen => ⟨_, execCtr_of_length hrun hlen, ?_⟩⟩
  have hC : slice r.B 30 (r.B.length - 3) = some ((r.B.take (r.B.length - 3)).drop 30) := slice_of_le (by omega) (by omega)
  rw [ctrCrypt_length, slice_length hC]
  refine ⟨by omega, fun u hu => ?_⟩
  obtain ⟨c, ks, hc, hP, hks⟩ := ctrCrypt_getElem? (blockOf s.KEY) (blockOf r.NB) (by rwa [slice_length hC])
  rw [slice_getElem? hC (by omega)] at hc
  rw [keystreamBlock, ← blockOf_set_last] at hks
  exact ⟨c, ks, hc, hP, hks⟩

/-- XORing with a sequence that is no shorter twice changes nothing. -/
theorem xorBytes_xorBytes_cancel {a b : List Byte} (h : a.length ≤ b.length) : xorBytes (xorBytes a b) b = a := by
  induction a generalizing b with
  | nil => simp [xorBytes]
  | cons x xs ih =>
    cases b with
    | nil => simp at h
    | cons y ys => simp [xorBytes, ih (Nat.le_of_succ_le_succ h)]

/-- XOR is malleable byte by byte. -/
theorem xorBytes_modify_xor (a b : List Byte) (i : Nat) (d : Byte) :
    xorBytes (a.modify i (· ^^^ d)) b = (xorBytes a b).modify i (· ^^^ d) := by
  induction a generalizing b i with
  | nil => simp [xorBytes]
  | cons x xs ih =>
    cases b with
    | nil => cases i <;> simp [xorBytes]
    | cons y ys =>
      cases i with
      | zero => simp [xorBytes, BitVec.xor_assoc, BitVec.xor_comm y d]
      | succ i => simp [xorBytes, ih]

/-- Settles O53: sequences of one length have one keystream, and CTR is the XOR with it. -/
theorem ctrRoundTrip : Obligations.CtrRoundTrip := by
  intro k nb C
  have hcovers : C.length ≤ (keystreamFrom k nb 0 (blockCount C.length)).length := by
    rw [keystreamFrom_length]
    exact le_mul_blockCount _
  refine ⟨ctrCrypt_length k nb C, ?inverse, fun i d => ?malleable⟩
  case inverse =>
    rw [ctrCrypt, ctrCrypt_length, ctrCrypt]
    exact xorBytes_xorBytes_cancel hcovers
  case malleable =>
    rw [ctrCrypt, List.length_modify]
    exact xorBytes_modify_xor C _ i d

/-! ### The counter block -/

/-- The four bytes of a word read behind a big-endian number append the word to it (R52, R191). -/
theorem foldl_bigEndian_wordBytes (w : Word) (v : Nat) :
    (wordBytes w).foldl (fun v b => 256 * v + b.toNat) v = 2 ^ 32 * v + w.toNat := by
  have hw := w.isLt
  simp only [wordBytes, List.foldl_cons, List.foldl_nil, toNat_wordByte]
  omega

/-- Only the last column of a block counts below `2^32`. -/
theorem bigEndian_blockBytes (b : AesBlock) : Ref.bigEndian (blockBytes b) =
    2 ^ 32 * (2 ^ 32 * (2 ^ 32 * b.c0.toNat + b.c1.toNat) + b.c2.toNat) + b.c3.toNat := by
  simp only [Ref.bigEndian, blockBytes, List.foldl_append, foldl_bigEndian_wordBytes]
  omega

/-- While byte 15 does not overflow, the last column of counter block `i` is that of the nonce plus `i` (R173). -/
theorem toNat_counterBlock_c3 {nb : AesBlock} {i : Nat} (htag : wordByte nb.c3 3 = 2) (hi : i ≤ 253) :
    (counterBlock nb i).c3.toNat = nb.c3.toNat + i := by
  have hlast : (wordByte nb.c3 3).toNat = 2 := by
    rw [htag]
    rfl
  have hw := nb.c3.isLt
  rw [toNat_wordByte] at hlast
  simp only [counterBlock, toNat_wordOf, toNat_wordByte, BitVec.toNat_ofNat]
  omega

/-- Settles O54: the two blocks differ in the last column alone. -/
theorem counterIsBigEndian : Obligations.CounterIsBigEndian := by
  intro nb i htag hi
  rw [bigEndian_blockBytes, bigEndian_blockBytes, toNat_counterBlock_c3 htag (by omega), ← Nat.add_assoc]
  rfl

/-! ### INTEG -/

/-- The two outcomes of INTEG, by the marker pattern. -/
theorem execInteg_outcomes {s : State} {r : Run} (hrun : s.run = some r) :
    (¬ markersOk r.PB = true → exec .integ s = .next { s with
      run := some { r with code := 6, stage := 0 }, res := rejectRecord 6 r.warn }) ∧
    (markersOk r.PB = true → exec .integ s = .next { s with run := some { r with stage := 11 } }) := by
  have hop : exec .integ s = raiseIf (!markersOk r.PB) .integrityCheckFailed s r stExtract := withRun_some _ _ _ hrun
  rw [hop]
  exact raiseIf_outcomes (by simp) (by simp) .integrityCheckFailed s r stExtract

/-- Settles O38: the condition of the check, byte by byte. -/
theorem integEffect : Obligations.IntegEffect := by
  refine ⟨rfl, fun s r hrun => ?_⟩
  have houtcomes := execInteg_outcomes hrun
  rw [markersOk_iff] at houtcomes
  exact houtcomes

/-- In a payload of 40 bytes the first byte would have to be both the leading marker and the eighth separator. -/
theorem length_of_markersOk {P : List Byte} (h : markersOk P = true) : 41 ≤ P.length := by
  obtain ⟨hlead, hsep⟩ := (markersOk_iff P).mp h
  obtain ⟨hge, heighth⟩ := hsep 8 (by decide) (by decide)
  by_contra hlt
  rw [show P.length - 5 * 8 = 0 by omega, hlead] at heighth
  exact absurd heighth (by decide)

/-- A step of INTEG that leaves the sequencer at EXTRACT has found the markers in the payload that EXTRACT is to read. -/
theorem markersOk_of_execInteg {s t : State} {r : Run} (h : exec .integ s = .next t) (hrun : t.run = some r)
    (hstage : r.stage = stExtract) : markersOk r.PB = true := by
  obtain ⟨r₀, hrun₀, -⟩ := withRun_next h
  obtain ⟨hfails, hpasses⟩ := execInteg_outcomes hrun₀
  by_cases hok : markersOk r₀.PB = true
  case pos =>
    cases (hpasses hok).symm.trans h
    cases hrun
    exact hok
  case neg =>
    cases (hfails hok).symm.trans h
    cases hrun
    exact absurd hstage (show stDone ≠ stExtract by decide)

/-- Settles O55: 40 bytes are too few for the nine markers, and 41 are enough for the eight registers. -/
theorem integNeedsFortyOneBytes : Obligations.IntegNeedsFortyOneBytes := by
  refine ⟨fun s r hrun hlen => ?fails, fun s t r h hrun hstage => ?extracts⟩
  case fails => exact (execInteg_outcomes hrun).1 fun hok => Nat.not_lt.mpr (length_of_markersOk hok) hlen
  case extracts =>
    have hlen : 41 ≤ r.PB.length := length_of_markersOk (markersOk_of_execInteg h hrun hstage)
    obtain ⟨x, hx⟩ := extractRegs_isSome (P := r.PB) (by omega)
    exact ⟨x, execExtract_of_some hrun hx⟩

end Sys2Proof.Machine

/-! PROOFS, family 44_aes128: the S-box against its definition in GF(2^8) (R192, R193), the key schedule against the
recurrence of its words (R198), and the published examples (R199). Facts about all 256 bytes are evaluated once, under a
name; the schedule is read word by word from a lemma about its blocks. -/

namespace Sys2Proof.Machine

/-! ### The S-box -/

/-- The inverse of the affine map of R193. -/
def affineInverse (s : Byte) : Byte := s.rotateLeft 1 ^^^ s.rotateLeft 3 ^^^ s.rotateLeft 6 ^^^ 0x05#8

theorem affine_affineInverse : ∀ s : Byte, Ref.affine (affineInverse s) = s := by decide +kernel

/-- The inverse in GF(2^8), read off the table by undoing the affine map; that it is one is `gfMul_gfInverse`. -/
def gfInverse (a : Byte) : Byte := affineInverse (sbox a)

theorem gfInverse_zero : gfInverse 0 = 0 := by decide +kernel

theorem gfMul_gfInverse : ∀ a : Byte, a ≠ 0 → Ref.gfMul 8 a (gfInverse a) = 1 := by decide +kernel

theorem gfInverse_gfInverse : ∀ a : Byte, gfInverse (gfInverse a) = a := by decide +kernel

theorem sbox_eq_affine_gfInverse (a : Byte) : sbox a = Ref.affine (gfInverse a) := (affine_affineInverse (sbox a)).symm

/-- Two bytes with one table entry have one inverse, and the inverse of that is either of them. -/
theorem sbox_injective : Function.Injective sbox := by
  have hinverse : Function.Injective (affineInverse ∘ sbox) := Function.Involutive.injective gfInverse_gfInverse
  exact hinverse.of_comp

/-- Settles O50: `gfInverse a` is the byte asked for. -/
theorem sboxIsAffineInverse : Obligations.SboxIsAffineInverse := by
  refine ⟨fun a => ⟨gfInverse a, ?zero, gfMul_gfInverse a, sbox_eq_affine_gfInverse a⟩, fun _ _ h => sbox_injective h⟩
  case zero =>
    rintro rfl
    exact gfInverse_zero

/-! ### The key schedule -/

/-- The four words of a block in order. -/
def blockWords (b : AesBlock) : List Word := [b.c0, b.c1, b.c2, b.c3]

theorem keyWords_eq (k : AesBlock) : keyWords k = (roundKeys k).flatMap blockWords := rfl

theorem flatMap_blockWords_length (bs : List AesBlock) : (bs.flatMap blockWords).length = 4 * bs.length := by
  simp [blockWords, Nat.mul_comm]

/-- Word `4j + c` of a list of blocks is word `c` of block `j`. -/
theorem flatMap_blockWords_getElem? {bs : List AesBlock} {j : Nat} {b : AesBlock} (hb : bs[j]? = some b) {c : Nat}
    (hc : c < 4) : (bs.flatMap blockWords)[4 * j + c]? = (blockWords b)[c]? := by
  induction bs generalizing j with
  | nil => cases hb
  | cons b₀ bs ih =>
    rw [List.flatMap_cons]
    cases j with
    | zero =>
      cases hb
      rw [Nat.mul_zero, Nat.zero_add, List.getElem?_append_left hc]
    | succ j =>
      rw [Nat.mul_succ, Nat.add_right_comm, List.getElem?_append_right (Nat.le_add_left 4 _)]
      exact ih hb

theorem roundKeysFrom_length (k : AesBlock) (rcs : List Byte) : (roundKeysFrom k rcs).length = rcs.length + 1 := by
  induction rcs generalizing k with
  | nil => rfl
  | cons rc rcs ih => simp [roundKeysFrom, ih]

theorem roundKeysFrom_getElem?_zero (k : AesBlock) (rcs : List Byte) : (roundKeysFrom k rcs)[0]? = some k := by
  cases rcs <;> rfl

/-- Each block after the first is made from the one before it with its own round constant. -/
theorem roundKeysFrom_getElem?_succ (k : AesBlock) {rcs : List Byte} {j : Nat} {rc : Byte} (hrc : rcs[j]? = some rc) :
    ∃ b, (roundKeysFrom k rcs)[j]? = some b ∧ (roundKeysFrom k rcs)[j + 1]? = some (nextRoundKey b rc) := by
  induction rcs generalizing k j with
  | nil => cases hrc
  | cons rc₀ rcs ih =>
    cases j with
    | zero =>
      cases hrc
      exact ⟨k, rfl, roundKeysFrom_getElem?_zero _ _⟩
    | succ j => exact ih (nextRoundKey k rc₀) hrc

theorem keyWords_length (k : AesBlock) : (keyWords k).length = 44 := by
  rw [keyWords_eq, flatMap_blockWords_length, roundKeys, roundKeysFrom_length]
  rfl

/-- The words of the key come first. -/
theorem keyWords_getElem?_first (k : AesBlock) {c : Nat} (hc : c < 4) : (keyWords k)[c]? = (blockWords k)[c]? := by
  have hword := flatMap_blockWords_getElem? (roundKeysFrom_getElem?_zero k roundConstants) hc
  rwa [Nat.mul_zero, Nat.zero_add] at hword

/-- The recurrence at word `c` of block `j + 1`. -/
theorem keyWords_recurrence (k : AesBlock) {j c : Nat} {rc : Byte} (hrc : roundConstants[j]? = some rc) (hc : c < 4) :
    ∃ p q, (keyWords k)[4 * j + c + 3]? = some p ∧ (keyWords k)[4 * j + c]? = some q ∧
      (keyWords k)[4 * (j + 1) + c]? = some (q ^^^ (if c = 0 then scheduleWord p rc else p)) := by
  obtain ⟨b, hb, hnext⟩ := roundKeysFrom_getElem?_succ k hrc
  have hold {c : Nat} (hc : c < 4) : (keyWords k)[4 * j + c]? = (blockWords b)[c]? := flatMap_blockWords_getElem? hb hc
  have hnew {c : Nat} (hc : c < 4) : (keyWords k)[4 * (j + 1) + c]? = (blockWords (nextRoundKey b rc))[c]? :=
    flatMap_blockWords_getElem? hnext hc
  match c, hc with
  | 0, hc => exact ⟨_, _, hold (c := 3) (by decide), hold hc, hnew hc⟩
  | 1, hc => exact ⟨_, _, hnew (c := 0) (by decide), hold hc, hnew hc⟩
  | 2, hc => exact ⟨_, _, hnew (c := 1) (by decide), hold hc, hnew hc⟩
  | 3, hc => exact ⟨_, _, hnew (c := 2) (by decide), hold hc, hnew hc⟩

/-- Settles O51: word `i` is word `i mod 4` of block `i div 4`. -/
theorem keyScheduleRecurrence : Obligations.KeyScheduleRecurrence := by
  intro k
  refine ⟨_, rfl, keyWords_length k, keyWords_getElem?_first k (c := 0) (by decide),
    keyWords_getElem?_first k (c := 1) (by decide), keyWords_getElem?_first k (c := 2) (by decide),
    keyWords_getElem?_first k (c := 3) (by decide), fun i hfirst hlast => ?recurrence⟩
  case recurrence =>
    have hj : i / 4 - 1 < roundConstants.length := show i / 4 - 1 < 10 by omega
    have hrc := List.getElem?_eq_getElem hj
    obtain ⟨p, q, hp, hq, hword⟩ := keyWords_recurrence k hrc (Nat.mod_lt i (by decide))
    rw [show 4 * (i / 4 - 1) + i % 4 + 3 = i - 1 by omega] at hp
    rw [show 4 * (i / 4 - 1) + i % 4 = i - 4 by omega] at hq
    rw [show 4 * (i / 4 - 1 + 1) + i % 4 = i by omega] at hword
    exact ⟨p, q, _, hp, hq, hrc, hword⟩

/-! ### The published examples -/

/-- Settles O52: the cipher evaluated on V-AES-1 and on V-AES-2. -/
theorem aesKnownAnswers : Obligations.AesKnownAnswers := by
  refine ⟨?firstExample, ?secondExample⟩
  case firstExample => decide +kernel
  case secondExample => decide +kernel

end Sys2Proof.Machine

/-! PROOFS, family 45_register_extractor: the micro-operation EXTRACT and the big-endian read it makes eight times (R54,
R210, R211). -/

namespace Sys2Proof.Machine

/-- A big-endian read as a number, by the four bytes it reads (R54). -/
theorem be32_reads (S : List Byte) (a : Nat) (h : a + 4 ≤ S.length) :
    ∃ b0 b1 b2 b3, S[a]? = some b0 ∧ S[a + 1]? = some b1 ∧ S[a + 2]? = some b2 ∧ S[a + 3]? = some b3 ∧
      (be32 S a h).toNat = 16777216 * b0.toNat + 65536 * b1.toNat + 256 * b2.toNat + b3.toNat := by
  have hread (k : Nat) (hk : k < 4) : S[a + k]? = some S[a + k] := List.getElem?_eq_getElem (by omega)
  refine ⟨_, _, _, _, hread 0 (by decide), hread 1 (by decide), hread 2 (by decide), hread 3 (by decide), ?_⟩
  rw [be32_eq_wordOf]
  exact toNat_wordOf _ _ _ _

/-- Settles O39: below 39 bytes there are no registers to write, and from 39 on there are eight reads inside the payload. -/
theorem extractEffect : Obligations.ExtractEffect := by
  refine ⟨rfl, fun s r hrun => ⟨fun hshort => ?raises, fun hlen => ?extracts⟩⟩
  case raises => exact execExtract_of_none hrun (extractRegs_none hshort)
  case extracts =>
    have hop := execExtract_of_some hrun (extractRegs_eq hlen)
    refine ⟨_, hop, fun i => ?_⟩
    rw [Vector.getElem_ofFn]
    exact be32_reads r.PB _ _

end Sys2Proof.Machine

/-! PROOFS, family 46_value_mapper: the micro-operations MAP_E, MAP_P, MAP_S and PUBLISH (R220, R222, R223, R227), the
rounding to binary32 (R225) and the ranges of the channels (R220, R221, R222). A quotient `num / den` is a rational `q`;
its exponent `e` is Mathlib's `Int.log 2 q`, and `IsRounding` says what its significand is of `q / 2^(e - 23)`. -/

namespace Sys2Proof.Machine

/-! ### The micro-operations -/

theorem scaleEnergy_eq (x : Word) : scaleEnergy x = rn32 (x.toNat % 1000000) 1000 := rfl

theorem passPower_eq (x : Word) : passPower x = rn32 x.toNat 1 := rfl

/-- Settles O40: MAP_E writes the scaled energies. -/
theorem mapEEffect : Obligations.MapEEffect := by
  refine ⟨rfl, fun s r hrun => ⟨_, withRun_some s r _ hrun, fun i => ?_⟩⟩
  rw [Vector.getElem_ofFn]
  exact scaleEnergy_eq _

/-- Settles O41: MAP_P writes the rounded powers. -/
theorem mapPEffect : Obligations.MapPEffect := by
  refine ⟨rfl, fun s r hrun => ⟨_, withRun_some s r _ hrun, fun j => ?_⟩⟩
  rw [Vector.getElem_ofFn]
  exact passPower_eq _

/-- Settles O43: PUBLISH delivers the record of a reading, whose channels are those of the run. -/
theorem publishEffect : Obligations.PublishEffect := by
  refine ⟨rfl, fun s r hrun => ⟨readingRecord r, withRun_some s r _ hrun, readingRecord_res_valid r,
    readingRecord_res_code r, readingRecord_res_warn r, readingRecord_rd_valid r, readingRecord_e r, readingRecord_p r,
    fun i => ⟨?len, ?chr⟩⟩⟩
  case len => rw [readingRecord_s_len, Vector.getElem_ofFn]
  case chr => rw [readingRecord_s_chr, Vector.getElem_ofFn]

/-! ### Decimal digits -/

/-- The digits of a positive number that fits are Mathlib's. -/
theorem digitsUp_eq_digits {k v : Nat} (hpos : v ≠ 0) (hfits : v < 10 ^ k) : digitsUp k v = Nat.digits 10 v := by
  induction k generalizing v with
  | zero => omega
  | succ k ih =>
    rw [digitsUp]
    split
    · next hlt => exact (Nat.digits_of_lt 10 v hpos hlt).symm
    · next hge =>
      rw [Nat.digits_eq_cons_digits_div (by decide) hpos, ih (by omega) (by omega)]

theorem decDigits_zero : decDigits 0 = [0] := rfl

theorem decDigits_of_pos {v : Nat} (hpos : v ≠ 0) (hfits : v < 2 ^ 32) : decDigits v = (Nat.digits 10 v).reverse := by
  have hten : v < 10 ^ Config.strMax := hfits.trans (by decide)
  rw [decDigits, digitsUp_eq_digits hpos hten]

section
variable {v : Nat} (hfits : v < 2 ^ 32)
include hfits

theorem decDigits_length_pos : 1 ≤ (decDigits v).length := by
  rcases eq_or_ne v 0 with rfl | hpos
  · decide
  · rw [decDigits_of_pos hpos hfits, List.length_reverse]
    exact List.length_pos_iff.mpr (Nat.digits_ne_nil_iff_ne_zero.mpr hpos)

theorem decDigits_length_le : (decDigits v).length ≤ 10 := by
  rcases eq_or_ne v 0 with rfl | hpos
  · decide
  · rw [decDigits_of_pos hpos hfits, List.length_reverse, Nat.digits_length_le_iff (by decide)]
    omega

theorem lt_ten_of_mem_decDigits {d : Nat} (hd : d ∈ decDigits v) : d < 10 := by
  rcases eq_or_ne v 0 with rfl | hpos
  · rw [decDigits_zero, List.mem_singleton] at hd
    omega
  · rw [decDigits_of_pos hpos hfits, List.mem_reverse] at hd
    exact Nat.digits_lt_base (by decide) hd

/-- No leading zero (R223). -/
theorem decDigits_head_ne_zero (hlen : 2 ≤ (decDigits v).length) : (decDigits v)[0] ≠ 0 := by
  have hpos : v ≠ 0 := by
    rintro rfl
    exact absurd hlen (by decide)
  have hlast := Nat.getLast_digit_ne_zero 10 hpos
  rw [List.getLast_eq_getElem] at hlast
  simpa [decDigits_of_pos hpos hfits] using hlast

/-- The digits, most significant first, make up the number. -/
theorem foldl_decDigits : (decDigits v).foldl (fun n d => 10 * n + d) 0 = v := by
  rcases eq_or_ne v 0 with rfl | hpos
  · rfl
  · rw [decDigits_of_pos hpos hfits, List.foldl_reverse]
    simpa [Nat.ofDigits_eq_foldr, Nat.add_comm] using Nat.ofDigits_digits 10 v

end

/-! ### Decimal strings -/

/-- The ASCII character of a digit. -/
def asciiDigit (d : Nat) : Byte := BitVec.ofNat 8 (0x30 + d)

theorem toNat_asciiDigit {d : Nat} (hd : d < 10) : (asciiDigit d).toNat = 0x30 + d := by
  rw [asciiDigit, BitVec.toNat_ofNat]
  omega

theorem spelled_map_asciiDigit {ds : List Nat} (hds : ∀ d ∈ ds, d < 10) :
    Ref.spelled (ds.map asciiDigit) = ds.foldl (fun n d => 10 * n + d) 0 := by
  rw [Ref.spelled, List.foldl_map]
  refine List.foldl_ext _ _ _ fun n d hd => ?_
  rw [toNat_asciiDigit (hds d hd), Nat.add_sub_cancel_left]

theorem toNat_decStr_len (x : Word) : (decStr x).len.toNat = (decDigits x.toNat).length := by
  have hlen := decDigits_length_le x.isLt
  rw [decStr, BitVec.toNat_ofNat]
  omega

theorem decStr_chr_of_lt (x : Word) {t : Nat} (ht : t < 10) (hlt : t < (decDigits x.toNat).length) :
    (decStr x).chr[t] = asciiDigit (decDigits x.toNat)[t] := by
  simp [decStr, asciiDigit, List.getElem?_eq_getElem hlt]

theorem decStr_chr_of_le (x : Word) {t : Nat} (ht : t < 10) (hle : (decDigits x.toNat).length ≤ t) :
    (decStr x).chr[t] = 0 := by
  simp [decStr, List.getElem?_eq_none hle]

theorem decStr_chr_take (x : Word) :
    (decStr x).chr.toList.take (decDigits x.toNat).length = (decDigits x.toNat).map asciiDigit := by
  have hlen := decDigits_length_le x.isLt
  refine List.ext_getElem (by simpa using hlen) fun t _ ht => ?_
  rw [List.length_map] at ht
  rw [List.getElem_take, Vector.getElem_toList, List.getElem_map, decStr_chr_of_lt x (by omega) ht]

/-- Settles O42: the string of a register is its digits in ASCII, and they make up the register. -/
theorem mapSEffect : Obligations.MapSEffect := by
  refine ⟨rfl, fun s r hrun => ⟨_, withRun_some s r _ hrun, fun i => ?_⟩⟩
  rw [Vector.getElem_ofFn]
  generalize r.x[i.val] = x
  have hdigit {d : Nat} (hd : d ∈ decDigits x.toNat) : d < 10 := lt_ten_of_mem_decDigits x.isLt hd
  refine ⟨_, (toNat_decStr_len x).symm, decDigits_length_pos x.isLt, decDigits_length_le x.isLt, fun u hu => ?ascii,
    fun u hu => decStr_chr_of_le x u.isLt hu, fun hlen => ?noLeadingZero, ?spells⟩
  case ascii =>
    have hd := hdigit (List.getElem_mem hu)
    rw [decStr_chr_of_lt x u.isLt hu, toNat_asciiDigit hd]
    omega
  case noLeadingZero =>
    have hhead := decDigits_head_ne_zero x.isLt hlen
    have hd := hdigit (List.getElem_mem (show 0 < (decDigits x.toNat).length by omega))
    rw [decStr_chr_of_lt x (by decide) (by omega), Ne, ← BitVec.toNat_inj, toNat_asciiDigit hd]
    simpa using hhead
  case spells =>
    rw [decStr_chr_take, spelled_map_asciiDigit fun _ => hdigit, foldl_decDigits x.isLt]

/-! ### Rounding to an integer -/

/-- `M` is the integer nearest to `t`, the even one when `t` lies halfway between two (R225). -/
def IsRounding (t : ℚ) (M : Nat) : Prop := |t - M| ≤ 1 / 2 ∧ (|t - M| = 1 / 2 → M % 2 = 0)

theorem isRounding_natCast (n : Nat) : IsRounding n n := by
  norm_num [IsRounding]

theorem isRounding_down {q : Nat} {f : ℚ} (hf : 0 ≤ f) (hle : f ≤ 1 / 2) (heven : f = 1 / 2 → q % 2 = 0) :
    IsRounding (q + f) q := by
  rw [IsRounding, add_sub_cancel_left, abs_of_nonneg hf]
  exact ⟨hle, heven⟩

theorem isRounding_up {q : Nat} {f : ℚ} (hf : f < 1) (hle : 1 / 2 ≤ f) (hodd : f = 1 / 2 → q % 2 ≠ 0) :
    IsRounding (q + f) (q + 1) := by
  rw [IsRounding, Nat.cast_succ, add_sub_add_left_eq_sub, abs_sub_comm, abs_of_pos (sub_pos.mpr hf)]
  refine ⟨by linarith, fun htie => ?_⟩
  have := hodd (by linarith)
  omega

/-- The remainder over the divisor is the fraction that is rounded away. -/
theorem isRounding_roundHalfEven (a : Nat) {d : Nat} (hd : 0 < d) : IsRounding (a / d) (roundHalfEven a d) := by
  have hd' : (0 : ℚ) < d := Nat.cast_pos.mpr hd
  have hsplit : (a / d : ℚ) = (a / d : Nat) + (a % d : Nat) / (d : ℚ) := by
    rw [div_eq_iff hd'.ne', add_mul, div_mul_cancel₀ _ hd'.ne']
    exact_mod_cast (Nat.div_add_mod' a d).symm
  have hbelow : ((a % d : Nat) / d : ℚ) < 1 := (div_lt_one hd').mpr (Nat.cast_lt.mpr (Nat.mod_lt a hd))
  have hle : ((a % d : Nat) / d : ℚ) ≤ 1 / 2 ↔ a % d * 2 ≤ d := by
    rw [div_le_div_iff₀ hd' two_pos, one_mul]
    exact_mod_cast Iff.rfl
  have hge : 1 / 2 ≤ ((a % d : Nat) / d : ℚ) ↔ d ≤ a % d * 2 := by
    rw [div_le_div_iff₀ two_pos hd', one_mul]
    exact_mod_cast Iff.rfl
  have htie (h : ((a % d : Nat) / d : ℚ) = 1 / 2) : a % d * 2 = d := le_antisymm (hle.mp h.le) (hge.mp h.ge)
  rw [hsplit]
  simp only [roundHalfEven]
  split
  · exact isRounding_down (by positivity) (hle.mpr (by omega)) fun h => absurd (htie h) (by omega)
  split
  · exact isRounding_up hbelow (hge.mpr (by omega)) fun h => absurd (htie h) (by omega)
  split
  · next heven => exact isRounding_down (by positivity) (hle.mpr (by omega)) fun _ => heven
  · next hodd => exact isRounding_up hbelow (hge.mpr (by omega)) fun _ => hodd

/-- Were the order reversed, one number would lie halfway between two neighbours that are both even. -/
theorem IsRounding.mono {t t' : ℚ} {M M' : Nat} (h : IsRounding t M) (h' : IsRounding t' M') (hle : t ≤ t') :
    M ≤ M' := by
  obtain ⟨hnear, heven⟩ := h
  obtain ⟨hnear', heven'⟩ := h'
  by_contra hlt
  have hsucc : (M' : ℚ) + 1 ≤ M := by exact_mod_cast not_le.mp hlt
  have hlow := (abs_le.mp hnear).1
  have hhigh := (abs_le.mp hnear').2
  have hM := heven (by rw [abs_of_neg] <;> linarith)
  have hM' := heven' (by rw [abs_of_pos] <;> linarith)
  have hneighbour : M ≤ M' + 1 := by
    have : (M : ℚ) ≤ M' + 1 := by linarith
    exact_mod_cast this
  omega

/-- No other integer is nearer. -/
theorem IsRounding.nearest_nat {t : ℚ} {M : Nat} (h : IsRounding t M) (N : Nat) :
    |t - M| ≤ |t - N| ∧ (|t - M| = |t - N| → N ≠ M → M % 2 = 0) := by
  rcases eq_or_ne N M with rfl | hne
  · exact ⟨le_rfl, fun _ hne => absurd rfl hne⟩
  obtain ⟨hnear, heven⟩ := h
  have hapart : (1 : ℚ) ≤ |(N : ℚ) - M| := by
    exact_mod_cast Int.one_le_abs (sub_ne_zero.mpr (Nat.cast_injective.ne hne))
  have htriangle := abs_sub_le (N : ℚ) t M
  rw [abs_sub_comm (N : ℚ) t] at htriangle
  exact ⟨by linarith, fun heq _ => heven (by linarith)⟩

/-- A number below an integer `n ≤ t` is farther than the rounding of `t`. -/
theorem IsRounding.nearer_than_below {t y : ℚ} {M n : Nat} (h : IsRounding t M) (hn : (n : ℚ) ≤ t) (hy : y < n) :
    |t - M| < |t - y| :=
  calc |t - M| ≤ |t - n| := (h.nearest_nat n).1
    _ = t - n := abs_of_nonneg (by linarith)
    _ < t - y := by linarith
    _ ≤ |t - y| := le_abs_self _

/-! ### The binary exponent -/

/-- The quotient scaled into the integers has the logarithm that is read off. -/
theorem floorLog2_eq_log {num den : Nat} (hnum : 0 < num) (hden : 0 < den) :
    floorLog2 num den = Int.log 2 (num / den : ℚ) := by
  have hnum' : (0 : ℚ) < num := Nat.cast_pos.mpr hnum
  have hden' : (0 : ℚ) < den := Nat.cast_pos.mpr hden
  rw [floorLog2]
  generalize hk : Nat.log2 den + 1 = k
  have hscaled : den ≤ num * 2 ^ k :=
    calc den ≤ 2 ^ k := hk ▸ Nat.lt_log2_self.le
      _ ≤ num * 2 ^ k := Nat.le_mul_of_pos_left _ hnum
  generalize hl : Nat.log2 (num * 2 ^ k / den) = l
  have hlow : 2 ^ l * den ≤ num * 2 ^ k :=
    (Nat.le_div_iff_mul_le hden).mp (hl ▸ Nat.log2_self_le (Nat.div_pos hscaled hden).ne')
  have hhigh : num * 2 ^ k < 2 ^ (l + 1) * den := (Nat.div_lt_iff_lt_mul hden).mp (hl ▸ Nat.lt_log2_self)
  apply le_antisymm
  · rw [← Int.zpow_le_iff_le_log one_lt_two (by positivity), Nat.cast_ofNat, zpow_sub₀ two_ne_zero, zpow_natCast,
      zpow_natCast, div_le_div_iff₀ (by positivity) hden']
    exact_mod_cast hlow
  · rw [← Int.lt_add_one_iff, ← Int.lt_zpow_iff_log_lt one_lt_two (by positivity), Nat.cast_ofNat, sub_add_eq_add_sub,
      zpow_sub₀ two_ne_zero, zpow_natCast, div_lt_div_iff₀ hden' (by positivity)]
    exact_mod_cast hhigh

/-- The model's scaling of numerator and denominator divides by `2^(e - 23)`. -/
theorem scaled_div (num den : Nat) (e : Int) :
    ((num * 2 ^ (23 - e).toNat : Nat) / (den * 2 ^ (e - 23).toNat : Nat) : ℚ) = num / den / 2 ^ (e - 23) := by
  have hexp : (2 : ℚ) ^ (e - 23) = 2 ^ (e - 23).toNat / 2 ^ (23 - e).toNat := by
    rw [← zpow_natCast, ← zpow_natCast, ← zpow_sub₀ two_ne_zero]
    congr 1
    omega
  rw [hexp]
  push_cast
  field_simp

theorem isRounding_significand (num : Nat) {den : Nat} (hden : 0 < den) (e : Int) :
    IsRounding (num / den / 2 ^ (e - 23) : ℚ) (significand num den e) := by
  rw [← scaled_div]
  exact isRounding_roundHalfEven _ (by positivity)

theorem two_pow_mul_unit (n : Nat) (e : Int) : ((2 ^ n : Nat) : ℚ) * 2 ^ (e - 23) = 2 ^ (e - 23 + n) := by
  rw [Nat.cast_pow, Nat.cast_ofNat, zpow_add₀ two_ne_zero, zpow_natCast, mul_comm]

theorem le_div_unit {q : ℚ} {e : Int} (hq : 2 ^ e ≤ q) : ((2 ^ 23 : Nat) : ℚ) ≤ q / 2 ^ (e - 23) := by
  rwa [le_div_iff₀ (by positivity), two_pow_mul_unit, Nat.cast_ofNat, sub_add_cancel]

theorem div_unit_lt {q : ℚ} {e : Int} (hq : q < 2 ^ (e + 1)) : q / 2 ^ (e - 23) < ((2 ^ 24 : Nat) : ℚ) := by
  rwa [div_lt_iff₀ (by positivity), two_pow_mul_unit, show e - 23 + (24 : Nat) = e + 1 by omega]

/-- Every binary32 value either lies on the grid of the exponent `e` or lies below `2^e`. -/
theorem IsRounding.nearest_float {q : ℚ} {e : Int} {M : Nat} (h : IsRounding (q / 2 ^ (e - 23)) M) (hq : 2 ^ e ≤ q)
    {M' : Nat} (hM' : M' < 2 ^ 24) (e' : Int) :
    |q - M * (2 : ℚ) ^ (e - 23)| ≤ |q - M' * (2 : ℚ) ^ (e' - 23)| ∧
      (|q - M * (2 : ℚ) ^ (e - 23)| = |q - M' * (2 : ℚ) ^ (e' - 23)| →
        M' * (2 : ℚ) ^ (e' - 23) ≠ M * (2 : ℚ) ^ (e - 23) → M % 2 = 0) := by
  have hunit : (0 : ℚ) < 2 ^ (e - 23) := by positivity
  have hscale (y : ℚ) : |q - y * 2 ^ (e - 23)| = |q / 2 ^ (e - 23) - y| * 2 ^ (e - 23) := by
    rw [← abs_of_pos hunit, ← abs_mul, abs_of_pos hunit, sub_mul, div_mul_cancel₀ _ hunit.ne']
  have hfloat : (M' : ℚ) * 2 ^ (e' - 23) = M' * 2 ^ (e' - e) * 2 ^ (e - 23) := by
    rw [mul_assoc, ← zpow_add₀ two_ne_zero, sub_add_sub_cancel]
  rw [hfloat, hscale, hscale, mul_le_mul_iff_of_pos_right hunit, mul_left_inj' hunit.ne', Ne, mul_left_inj' hunit.ne']
  rcases le_or_gt e e' with hle | hlt
  case inl =>
    have hgrid : (M' : ℚ) * 2 ^ (e' - e) = (M' * 2 ^ (e' - e).toNat : Nat) := by
      rw [Nat.cast_mul, Nat.cast_pow, ← zpow_natCast, Int.toNat_of_nonneg (by omega)]
      rfl
    rw [hgrid, Nat.cast_inj]
    exact h.nearest_nat _
  case inr =>
    have hbelow : (M' : ℚ) * 2 ^ (e' - e) < (2 ^ 23 : Nat) :=
      calc (M' : ℚ) * 2 ^ (e' - e) ≤ M' * 2 ^ (-1 : Int) := by
            gcongr
            · exact one_le_two
            · omega
        _ < (2 ^ 24 : Nat) * 2 ^ (-1 : Int) := by gcongr
        _ = (2 ^ 23 : Nat) := by norm_num
    have hnearer := h.nearer_than_below (le_div_unit hq) hbelow
    exact ⟨hnearer.le, fun heq => absurd heq hnearer.ne⟩

/-! ### Binary32 patterns -/

/-- The quotients that occur, with a margin (R220, R222). -/
def Occurs (num den : Nat) : Prop := 0 < num ∧ 0 < den ∧ den ≤ 1024 * num ∧ num < 2 ^ 33 * den

theorem rn32_of_pos {num : Nat} (hnum : 0 < num) (den : Nat) {e : Int} {M : Nat} (he : floorLog2 num den = e)
    (hM : significand num den e = M) :
    rn32 num den = if M = 2 ^ 24 then packFloat (e + 1 + 127) (2 ^ 23) else packFloat (e + 127) M := by
  subst he hM
  rw [rn32, if_neg hnum.ne']

theorem toNat_packFloat {E : Int} {M : Nat} (hE : E.toNat < 256) (hM : M < 2 ^ 24) :
    (packFloat E M).toNat = E.toNat * 2 ^ 23 + (M - 2 ^ 23) := by
  rw [packFloat, BitVec.toNat_ofNat, Nat.mod_eq_of_lt (by omega)]

/-- A significand rounded up to `2^24` carries into the exponent of the pattern. -/
theorem toNat_rn32 {num den : Nat} (hnum : 0 < num) {e : Int} {M : Nat} (he : floorLog2 num den = e)
    (hM : significand num den e = M) (hlow : -127 ≤ e) (hhigh : e < 128) (hle : M ≤ 2 ^ 24) :
    (rn32 num den).toNat = (e + 127).toNat * 2 ^ 23 + (M - 2 ^ 23) := by
  rw [rn32_of_pos hnum den he hM]
  split
  · next hcarry => rw [toNat_packFloat (by omega) (by decide)]; omega
  · next hlt => exact toNat_packFloat (by omega) (by omega)

section
variable {num den : Nat} (hocc : Occurs num den)
include hocc

theorem Occurs.den_pos : 0 < den := by
  obtain ⟨-, hden, -, -⟩ := hocc
  exact hden

theorem Occurs.quotient_pos : (0 : ℚ) < num / den := by
  obtain ⟨hnum, hden, -, -⟩ := hocc
  positivity

theorem Occurs.log_bounds : -10 ≤ Int.log 2 (num / den : ℚ) ∧ Int.log 2 (num / den : ℚ) ≤ 32 := by
  have hq := hocc.quotient_pos
  obtain ⟨-, hden, hlow, hhigh⟩ := hocc
  constructor
  · rw [← Int.zpow_le_iff_le_log one_lt_two hq, le_div_iff₀ (by positivity)]
    have : (den : ℚ) ≤ 1024 * num := by exact_mod_cast hlow
    norm_num
    linarith
  · rw [← Int.lt_add_one_iff, ← Int.lt_zpow_iff_log_lt one_lt_two hq, div_lt_iff₀ (by positivity)]
    exact_mod_cast hhigh

/-- The parts of a rounded quotient; the significand may be `2^24`, which `toNat_rn32` carries into the exponent. -/
theorem Occurs.rounding : ∃ (e : Int) (M : Nat),
    e = Int.log 2 (num / den : ℚ) ∧ IsRounding (num / den / 2 ^ (e - 23)) M ∧
    2 ^ 23 ≤ M ∧ M ≤ 2 ^ 24 ∧ -10 ≤ e ∧ e ≤ 32 ∧ (rn32 num den).toNat = (e + 127).toNat * 2 ^ 23 + (M - 2 ^ 23) := by
  obtain ⟨hmin, hmax⟩ := hocc.log_bounds
  have hq := hocc.quotient_pos
  obtain ⟨hnum, hden, -, -⟩ := hocc
  have hround := isRounding_significand num hden (Int.log 2 (num / den : ℚ))
  have hM : 2 ^ 23 ≤ significand num den (Int.log 2 (num / den : ℚ)) :=
    (isRounding_natCast _).mono hround (le_div_unit (Int.zpow_log_le_self one_lt_two hq))
  have hM' : significand num den (Int.log 2 (num / den : ℚ)) ≤ 2 ^ 24 :=
    hround.mono (isRounding_natCast _) (div_unit_lt (Int.lt_zpow_succ_log_self one_lt_two _)).le
  exact ⟨_, _, rfl, hround, hM, hM', hmin, hmax,
    toNat_rn32 hnum (floorLog2_eq_log hnum hden) rfl (by omega) (by omega) hM'⟩

end

/-- Settles O57: the significand is a rounding on the grid of the exponent; where it is `2^24`, the same number is
`2^23` on the next grid. -/
theorem roundsToNearestEven : Obligations.RoundsToNearestEven := by
  intro num den hnum hden hlow hhigh
  have hocc : Occurs num den := ⟨hnum, hden, hlow, hhigh⟩
  obtain ⟨e, M, he, hround, hM, hM', hmin, hmax, hpattern⟩ := hocc.rounding
  have hq : (2 : ℚ) ^ e ≤ num / den := he ▸ Int.zpow_log_le_self one_lt_two hocc.quotient_pos
  rcases hM'.eq_or_lt with hcarry | hlt
  case inl =>
    refine ⟨e + 1, 2 ^ 23, le_rfl, by decide, by omega, by omega, ?pattern, fun M' e' hM' => ?nearest⟩
    case pattern =>
      rw [hpattern, hcarry, show (e + 1 + 127).toNat = (e + 127).toNat + 1 by omega]
      omega
    case nearest =>
      have hsame : ((2 ^ 23 : Nat) : ℚ) * 2 ^ (e + 1 - 23) = M * 2 ^ (e - 23) := by
        rw [hcarry, show e + 1 - 23 = e - 23 + 1 by omega, zpow_add_one₀ two_ne_zero]
        push_cast
        ring
      obtain ⟨hnear, -⟩ := hround.nearest_float hq hM' e'
      rw [hsame]
      exact ⟨hnear, fun _ _ => by decide⟩
  case inr =>
    exact ⟨e, M, hM, hlt, by omega, by omega, hpattern, fun M' e' hM' => hround.nearest_float hq hM' e'⟩

/-! ### Ranges of the channels -/

/-- A larger quotient has a larger exponent, or the same one and a significand that is not smaller. -/
theorem Occurs.rn32_mono {num den num' den' : Nat} (hocc : Occurs num den) (hocc' : Occurs num' den')
    (hle : num * den' ≤ num' * den) : (rn32 num den).toNat ≤ (rn32 num' den').toNat := by
  have hquot : (num / den : ℚ) ≤ num' / den' := by
    rw [div_le_div_iff₀ (Nat.cast_pos.mpr hocc.den_pos) (Nat.cast_pos.mpr hocc'.den_pos)]
    exact_mod_cast hle
  have hlog := Int.log_mono_right (b := 2) hocc.quotient_pos hquot
  obtain ⟨e, M, he, hround, hM, hM', hmin, hmax, hpattern⟩ := hocc.rounding
  obtain ⟨e', N, he', hround', hN, hN', hmin', hmax', hpattern'⟩ := hocc'.rounding
  have hexp : e ≤ e' := by rwa [he, he']
  rcases hexp.eq_or_lt with rfl | hlt
  · have hsignificand := hround.mono hround' (by gcongr)
    omega
  · omega

theorem rn32_zero (den : Nat) : rn32 0 den = 0 := rfl

theorem occurs_energy {n : Nat} (hpos : n ≠ 0) (hlt : n < 1000000) : Occurs n 1000 :=
  ⟨by omega, by decide, by omega, by omega⟩

theorem occurs_power {n : Nat} (hpos : n ≠ 0) (hlt : n < 2 ^ 32) : Occurs n 1 :=
  ⟨by omega, by decide, by omega, by omega⟩

theorem scaleEnergy_bounds {x : Word} (hpos : x.toNat % 1000000 ≠ 0) :
    0x3A83126F ≤ (scaleEnergy x).toNat ∧ (scaleEnergy x).toNat ≤ 0x4479FFF0 := by
  have hocc := occurs_energy hpos (Nat.mod_lt _ (by decide))
  have hmin : (rn32 1 1000).toNat = 0x3A83126F := by decide +kernel
  have hmax : (rn32 999999 1000).toNat = 0x4479FFF0 := by decide +kernel
  rw [scaleEnergy_eq, ← hmin, ← hmax]
  exact ⟨(occurs_energy one_ne_zero (by decide)).rn32_mono hocc (by omega),
    hocc.rn32_mono (occurs_energy (by decide) (by decide)) (by omega)⟩

theorem passPower_bounds {x : Word} (hpos : x ≠ 0) :
    0x3F800000 ≤ (passPower x).toNat ∧ (passPower x).toNat ≤ 0x4F800000 := by
  have hx : x.toNat ≠ 0 := BitVec.toNat_ne_iff_ne.mpr hpos
  have hocc := occurs_power hx x.isLt
  have hmin : (rn32 1 1).toNat = 0x3F800000 := by decide +kernel
  have hmax : (rn32 (2 ^ 32 - 1) 1).toNat = 0x4F800000 := by decide +kernel
  rw [passPower_eq, ← hmin, ← hmax]
  exact ⟨(occurs_power one_ne_zero (by decide)).rn32_mono hocc (by omega),
    hocc.rn32_mono (occurs_power (by decide) (by decide)) (by omega)⟩

/-- Settles O58: `rn32` is monotone, so the ranges are those between its values at the smallest and the largest number. -/
theorem channelRanges : Obligations.ChannelRanges := by
  refine fun x => ⟨?energy, ?power⟩
  case energy =>
    rcases eq_or_ne (x.toNat % 1000000) 0 with h | h
    · exact .inl ⟨h, by rw [scaleEnergy_eq, h, rn32_zero]⟩
    · exact .inr ⟨h, scaleEnergy_bounds h⟩
  case power =>
    rcases eq_or_ne x 0 with rfl | h
    · exact .inl ⟨rfl, rn32_zero 1⟩
    · exact .inr ⟨h, passPower_bounds h⟩

end Sys2Proof.Machine

/-! PROOFS, families 60_exceptions and 70_reset_and_hazards: the codes that no step reports (R240, R241), the hardware reset
input (R270, R273), and the filler in the cells to which the spec gives no value (R271). -/

namespace Sys2Proof.Machine

/-! ### Result codes -/

theorem RecordOk.code_reachable {c : ResultRecord} (h : RecordOk c) : c.res_code ≠ 7 ∧ c.res_code.toNat ≤ 8 := by
  obtain ⟨-, -, -, hle, hne, -⟩ := h
  exact ⟨hne, hle⟩

/-- Settles O23: the invariant, which every step keeps, says so of the record at the port. -/
theorem codeSevenIsUnreachable : Obligations.CodeSevenIsUnreachable :=
  fun s t hinv hstep => (stepKeepsInv s t hinv hstep).recordOk.code_reachable

/-! ### The reset input -/

/-- Settles O7: both apply the one reset of the block, whatever run is in progress. -/
theorem resetInputActsAsReset : Obligations.ResetInputActsAsReset := by
  intro s rest hport
  have hstep := step_of_resetInput hport
  exact ⟨hstep, applyReset { s with port := rest }, hstep, applyReset_len _, applyReset_last _,
    applyReset_idle_timeout _, applyReset_key_valid _, applyReset_run _, applyReset_res _⟩

/-! ### The cells to which the spec gives no value -/

theorem noKey_getElem (i : Fin 16) : noKey[i.val] = 0 := Vector.getElem_ofFn i.isLt

/-- After any reset, from whatever state (R120, R270). -/
theorem applyReset_cells_read_zero (s : State) :
    (∀ a, Memory.read (applyReset s).FB a = 0) ∧ ∀ i : Fin 16, (applyReset s).KEY[i.val] = 0 :=
  ⟨Memory.read_empty, noKey_getElem⟩

/-- Settles O60: each kind of reset leaves the empty list of cells and the key of fillers, a flush the empty list. -/
theorem cellsWithoutValueReadZero : Obligations.CellsWithoutValueReadZero := by
  refine ⟨⟨Memory.read_empty, noKey_getElem⟩, fun s => ⟨?command, ?input, ?flush⟩⟩
  case command => exact ⟨applyReset s, rfl, applyReset_cells_read_zero s⟩
  case input =>
    intro hhead
    obtain ⟨rest, hport⟩ := List.head?_eq_some_iff.mp hhead
    exact ⟨_, step_of_resetInput hport, applyReset_cells_read_zero _⟩
  case flush =>
    intro now hflush
    exact ⟨_, execPoll_frameRecord hflush, Memory.read_empty⟩

end Sys2Proof.Machine
